-- ==== Sys2Proof/Word.lean ====
section
/-! DEFINITION. The word types of the Streebog hash-engine core (00_scope.md R5, R7): bytes, the 32-bit words of the
register window, the 64-bit segments of the linear layer, the 512-bit Block and the 7-bit LEN field. -/

namespace Sys2Proof

/-- A byte: bit 7 is its most significant bit (R7). -/
abbrev Byte := BitVec 8

/-- A word of the 32-bit register window, and a command word (R50, R80). -/
abbrev Word := BitVec 32

/-- A 64-bit segment value of the linear layer (R5 SEGMENTS, R7). -/
abbrev Segment := BitVec 64

/-- A Block: 64 bytes `B[0] .. B[63]`. It is held as the bits of `int(B)`, so `int(B)` is `BitVec.toNat` and bit `k`
of the Block is bit `k` of the vector (R7); byte `B[i]` is `Block.byte` (Machine/BlockOps.lean). -/
abbrev Block := BitVec 512

/-- The LEN field of a command word and the latch TLEN: 7 bits (R32, R80). -/
abbrev Len := BitVec 7

end Sys2Proof
end

