-- ==== Sys2Proof/Syntax.lean ====
section
/-! DEFINITION. The commands of the core, its only instructions (30_encoding.md R81; spec/opcode_table.json). -/

namespace Sys2Proof

/-- A command, one constructor per row of the opcode table. -/
inductive Instr where
  /-- INIT, exactly 0x00000001: start a hash computation (R81, R163). -/
  | init
  /-- BLOCK, exactly 0x00000002: consume the full 64-byte block in M (R81, R164). -/
  | block
  /-- TAIL r, 0x00000003 | (r << 8): consume the tail of `r` bytes in M and finalize (R81, R165). The field LEN has 7 bits;
  only 0 .. 63 are legal (`Instr.wellFormed`). -/
  | tail (len : Len)
deriving DecidableEq, Repr

end Sys2Proof
end

