-- ==== Sys2Proof/WellFormed.lean ====
section
/-! DEFINITION. Which terms of Instr are commands of the core (30_encoding.md R81, R83). -/

namespace Sys2Proof

/-- The largest legal LEN: a tail of 0 .. 63 bytes (R81, R83). -/
def maxTailLen : Nat := 63

/-- INIT and BLOCK have no operand; TAIL's LEN is 0 .. 63 (R81, R83). LEN 64 .. 127 is BADLEN, not a command (R82). -/
def Instr.wellFormed : Instr → Bool
  | .init => true
  | .block => true
  | .tail len => decide (len.toNat ≤ maxTailLen)

end Sys2Proof
end

