-- ==== Sys2Proof/Decode.lean ====
section
/-! DEFINITION. The command decoder (30_encoding.md R82), total on every 32-bit word, and the encoder (R80, R81). -/

namespace Sys2Proof

/-- What a command word decodes to (R82). Every word is exactly one of these. -/
inductive Decoded where
  /-- INIT, BLOCK, or TAIL with LEN in 0 .. 63. -/
  | instr (i : Instr)
  /-- BADLEN: TAIL with LEN in 64 .. 127; issuing it raises ERR_TAIL_LEN, code 2 (R84, R202). -/
  | badLen (len : Len)
  /-- ILLEGAL: a reserved opcode or a reserved bit set; issuing it raises ERR_ILLEGAL_CMD, code 1 (R84, R201). -/
  | illegal
deriving DecidableEq, Repr

/-- Bits [3:0] of a command word: OP (R80). -/
def opField (v : Word) : BitVec 4 := v.extractLsb' 0 4

/-- Bits [14:8] of a command word: LEN (R80). -/
def lenField (v : Word) : Len := v.extractLsb' 8 7

/-- `Decode(v)` (R82), test by test. It reads only `v`. -/
def decode (v : Word) : Decoded :=
  if opField v = 0x1#4 ∧ v.extractLsb' 4 28 = 0#28 then .instr .init
  else if opField v = 0x2#4 ∧ v.extractLsb' 4 28 = 0#28 then .instr .block
  else if opField v = 0x3#4 ∧ v.extractLsb' 15 17 = 0#17 ∧ v.extractLsb' 4 4 = 0#4 then
    if (lenField v).toNat ≤ maxTailLen then .instr (.tail (lenField v)) else .badLen (lenField v)
  else .illegal

/-- The command word of an instruction: OP in [3:0], LEN in [14:8], reserved bits 0 (R80, R81). -/
def encode : Instr → Word
  | .init => 0x00000001#32
  | .block => 0x00000002#32
  | .tail len => 0#17 ++ len ++ 0#4 ++ 0x3#4

/-- The instruction the decoder reads from a command of `nbits` bits `w`, bits above `nbits` being 0. A command is one
32-bit word of the bus (R80), so its words lie in no byte order; a number that is no 32-bit word is no command. -/
def decodeTableWord (nbits w : Nat) : Option Instr :=
  if w % 2 ^ nbits < 2 ^ 32 then
    match decode (BitVec.ofNat 32 (w % 2 ^ nbits)) with
    | .instr i => some i
    | .badLen _ => none
    | .illegal => none
  else none

end Sys2Proof
end

