-- ==== Sys2Proof/Config.lean ====
section
/-! DEFINITION. What an implementation fixes and the spec leaves open (00_scope.md R6, R9): the constant tables TABLES,
the base address of the register window and the two latencies. The state carries one `Config`; no step changes it, and a
statement over all states holds for every `Config`. -/

namespace Sys2Proof

/-- TABLES, the record of the four constant tables (R9). It is ROM: no register reads or writes it (R33). The source
gives the roles of the tables and no values, so a statement over all states holds for all tables that R9 admits. -/
structure Tables where
  /-- SBOX : Byte → Byte, entry `b` at index `b` (R5 SBOX_ENTRIES, R120). -/
  sbox : Vector Byte 256
  /-- SBOX is a bijection (R5, R9): 256 entries and none repeats (`sboxAt_bijective`). -/
  sbox_nodup : sbox.toList.Nodup
  /-- PERM : byte positions; output byte `i` takes input byte `PERM[i]` (R5 PERM_ENTRIES, R121). -/
  perm : Vector (Fin 64) 64
  /-- PERM is a permutation of the byte positions (R5, R9): 64 entries and none repeats (`permAt_bijective`). -/
  perm_nodup : perm.toList.Nodup
  /-- LIN : the 64 basis rows of the linear layer (R5 LIN_ROWS, R122). No rule asks L to be invertible (R122,
  93_implementation_defined.md U15). -/
  lin : Vector Segment 64
  /-- RC : the round constants C_0 .. C_11 (R5 ROUND_CONSTANTS, R140). -/
  rc : Vector Block 12
deriving DecidableEq, Repr

/-- The parameters of one built core (R6). -/
structure Config where
  /-- TABLES (R9). -/
  tables : Tables
  /-- CORE_BASE: the address of offset 0x000 of the register window in the host's address space (R6, R50). -/
  coreBase : Nat
  /-- BLOCK_LATENCY (R6, R250). No rule depends on it: the model has no time, and a run's schedule says how many host
  accesses fall before a sequencer step. -/
  blockLatency : Nat
  /-- TAIL_LATENCY (R6, R250), read by no rule as well. -/
  tailLatency : Nat
deriving DecidableEq, Repr

end Sys2Proof
end

