-- ==== Sys2Proof/Machine/BlockOps.lean ====
section
/-! DEFINITION. ByteBlockOps (40_block_ops.md R100 to R103) and the byte and word views of a Block (00_scope.md R7,
20_memory.md R52, R53). Total functions with no flags and no exceptions. -/

namespace Sys2Proof.Machine

/-- `B[i]`, byte `i` of a Block: byte 0 is the most significant and byte 63 the least (R7). -/
def Block.byte (b : Block) (i : Nat) : Byte := b.extractLsb' (8 * (63 - i)) 8

/-- The Block whose bytes 0 .. k-1 are `f 0 .. f (k-1)`, in its `8 * k` low bits. -/
def Block.ofBytesUpTo (f : Nat → Byte) : Nat → Block
  | 0 => 0#512
  | k + 1 => (Block.ofBytesUpTo f k <<< 8) ||| (f k).setWidth 512

/-- The Block with `out[i] = f i` for `i` in 0 .. 63: the loops "for i in 0..64" of R120, R121 and R103. -/
def Block.ofBytes (f : Nat → Byte) : Block := Block.ofBytesUpTo f 64

/-- `B` with `B[i] <- x` and every other byte as it was. -/
def Block.setByte (b : Block) (i : Nat) (x : Byte) : Block :=
  Block.ofBytes fun k => if k = i then x else Block.byte b k

/-- `word_j(B) = B[4j] << 24 | B[4j+1] << 16 | B[4j+2] << 8 | B[4j+3]` (R52). -/
def Block.word (b : Block) (j : Nat) : Word :=
  Block.byte b (4 * j) ++ Block.byte b (4 * j + 1) ++ Block.byte b (4 * j + 2) ++ Block.byte b (4 * j + 3)

/-- A write of word `v` to word `j` of a block register: the four byte assignments of R53, all other bytes kept. -/
def Block.setWord (b : Block) (j : Nat) (v : Word) : Block :=
  Block.ofBytes fun k => if k / 4 = j then v.extractLsb' (8 * (3 - k % 4)) 8 else Block.byte b k

/-- `X(a, b)`: block XOR (R100). -/
def blockXor (a b : Block) : Block := a ^^^ b

/-- `ADD(a, b)`: addition modulo 2^512 of the big-endian integers; the carry out of byte 0 is discarded (R101). -/
def blockAdd (a b : Block) : Block := a + b

/-- `blk(v)`: the Block whose big-endian integer is `v` (R7, R102; D4). -/
def blk (v : Nat) : Block := BitVec.ofNat 512 v

/-- `PAD(t) = 0x00 × (63-r) || 0x01 || t` for a tail `t` of `r` bytes, `0 <= r <= 63` (R103). It is never applied to a
64-byte remainder (R104): TAIL refuses LEN above 63 at issue (R202). -/
def pad (t : List Byte) : Block :=
  Block.ofBytes fun i =>
    if i < 63 - t.length then 0x00#8
    else if i = 63 - t.length then 0x01#8
    else t.getD (i - (64 - t.length)) 0x00#8

/-- The Block whose byte `i` is byte `i` of a byte string, 0 where the string is shorter. -/
def Block.ofByteList (bs : List Byte) : Block := Block.ofBytes fun i => bs.getD i 0x00#8

end Sys2Proof.Machine
end

