-- ==== Sys2Proof/Machine/State.lean ====
section
/-! DEFINITION. The state of one core (10_state.md R21) with its parameters (00_scope.md R6), the environment's inputs and
schedule as plain data, the reasons a step stops, and the state after reset (70_reset_and_hazards.md R240). -/

namespace Sys2Proof.Machine

/-- STATUS.STATE, the state of the hash-engine state machine (R28). Code 6 is reserved and never entered, and has no
value here (R28, 93_implementation_defined.md U11; assumption 5). -/
inductive EngineState where
  /-- 0 IDLE: after reset, before the first INIT. -/
  | idle
  /-- 1 FULL: initialised; consuming full blocks. -/
  | full
  /-- 2 TAIL: consuming the tail. -/
  | tail
  /-- 3 FINLEN: finalizing the length. -/
  | finlen
  /-- 4 FINSUM: finalizing the checksum. -/
  | finsum
  /-- 5 DONE: H is the digest. -/
  | done
  /-- 7 ERROR: a contract violation of the host. -/
  | error
deriving DecidableEq, Repr

/-- STATUS.CODE, the error cause (R200). Codes 5 .. 15 are reserved and never produced (U12; assumption 5). -/
inductive ErrorCode where
  /-- 0 NONE. -/
  | none
  /-- 1 ERR_ILLEGAL_CMD: the CMD word decodes to ILLEGAL (R201). -/
  | illegalCmd
  /-- 2 ERR_TAIL_LEN: TAIL with LEN in 64 .. 127 (R202). -/
  | tailLen
  /-- 3 ERR_SEQUENCE: BLOCK or TAIL in IDLE or DONE (R203). -/
  | sequence
  /-- 4 ERR_BUSY_WRITE: a write to CMD or M while BUSY = 1 (R206, R207). -/
  | busyWrite
deriving DecidableEq, Repr

/-- One event of a run: what happens next, in the total order of R60. -/
inductive Event where
  /-- A host read of `bytes` bytes at bus address `addr` (R55). -/
  | read (addr bytes : Nat)
  /-- A host write of `v`, `bytes` bytes wide, at bus address `addr` (R56). -/
  | write (addr bytes : Nat) (v : Word)
  /-- The platform asserts reset: one atomic Reset event (R241). -/
  | reset
  /-- The schedule lets the sequencer move (R60); with BUSY = 0 it has no step (R162) and nothing happens. -/
  | sequencer
deriving DecidableEq, Repr

/-- The state of one core. -/
structure State where
  /-- H, the chaining state; the digest once STATE = DONE (R22). -/
  h : Block
  /-- N, the message bits consumed so far (R23). -/
  n : Block
  /-- SIGMA, the checksum (R24). -/
  sigma : Block
  /-- M, the message block input (R25). -/
  m : Block
  /-- STATUS.STATE (R28). ERR and DVALID are decodes of it (R30, Flags.lean). -/
  engine : EngineState
  /-- STATUS.BUSY (R29). -/
  busy : Bool
  /-- STATUS.CODE, storage (R30). -/
  code : ErrorCode
  /-- The latch PEND, read through STATUS.PEND (R31). -/
  pend : Bool
  /-- The hidden latch TLEN (R32). -/
  tlen : Len
  /-- TABLES, a ROM (R21, R33), and the other parameters of the core (R6). No step changes it. -/
  config : Config
  /-- The model's own: the host accesses, Reset events and sequencer turns yet to happen, in order (R60; assumption 1). -/
  events : List Event
  /-- The model's own: the words host reads have returned, newest first (the host variables of R85; assumption 4). -/
  reads : List Word
deriving DecidableEq, Repr

/-- Why the machine stops. None of these is an error cause of the core (R200): those are next states. -/
inductive Fault where
  /-- ACCESS_FAULT: a host access to the window that is not an aligned 32-bit access (R57, R210). Raised by the port. Safe:
  the core's bus error response changes no core state, and what the host does on it belongs to the platform. -/
  | accessFault
  /-- A host access outside the register window, which does not reach the core (R50; assumption 6). Raised by the port.
  Safe: the address is none of this machine's. -/
  | outsideWindow
  /-- BUSY = 1 with STATE in IDLE, DONE or ERROR, for which R162 gives no step (assumption 7). Raised by the sequencer.
  Safe: no reachable state is such (R36). -/
  | sequencerStuck
deriving DecidableEq, Repr

/-- Why an instruction has no meaning. -/
inductive Refusal where
  /-- An instruction whose meaning is not written: raised by exec's refused arms alone, and no arm is refused. Safe. -/
  | notModelled (mnemonic : String)
deriving DecidableEq, Repr

/-- The state after reset (R240) of a core built with the parameters `c`, with nothing yet to happen. -/
def State.resetWith (c : Config) : State where
  h := blk 0
  n := blk 0
  sigma := blk 0
  m := blk 0
  engine := .idle
  busy := false
  code := .none
  pend := false
  tlen := 0#7
  config := c
  events := []
  reads := []

/-- The parameters State.reset names where the spec leaves them open: the reference tables TABLES_GOST2012 (assumption 2),
CORE_BASE 0 and the latencies 0, which no rule reads (assumption 3). -/
def referenceConfig : Config where
  tables := gost2012
  coreBase := 0
  blockLatency := 0
  tailLatency := 0

/-- The machine right after reset (R240). -/
def State.reset : State := State.resetWith referenceConfig

end Sys2Proof.Machine
end

