-- ==== Sys2Proof/Machine/Flags.lean ====
section
/-! DEFINITION. STATUS and its fields (10_state.md R27 to R31; 60_exceptions.md R200). The core has no other flag: no
datapath function writes one (40_block_ops.md, 41_spl.md, 42_cipher.md). -/

namespace Sys2Proof.Machine

/-- The 3-bit encoding of STATE (R28). -/
def EngineState.bits : EngineState → BitVec 3
  | .idle => 0#3
  | .full => 1#3
  | .tail => 2#3
  | .finlen => 3#3
  | .finsum => 4#3
  | .done => 5#3
  | .error => 7#3

/-- The 4-bit encoding of CODE (R200). -/
def ErrorCode.bits : ErrorCode → BitVec 4
  | .none => 0#4
  | .illegalCmd => 1#4
  | .tailLen => 2#4
  | .sequence => 3#4
  | .busyWrite => 4#4

/-- ERR = (STATE == 7), a decode and not storage (R30). -/
def State.err (s : State) : Bool := s.engine == .error

/-- DVALID = (STATE == 5), a decode and not storage (R30). -/
def State.dvalid (s : State) : Bool := s.engine == .done

/-- The STATUS word: CODE [15:12], PEND [11], DVALID [10], ERR [9], BUSY [8], STATE [2:0], all other bits 0 (R27, R55). -/
def State.statusWord (s : State) : Word :=
  0#16 ++ s.code.bits ++ BitVec.ofBool s.pend ++ BitVec.ofBool s.dvalid ++ BitVec.ofBool s.err ++ BitVec.ofBool s.busy
    ++ 0#5 ++ s.engine.bits

end Sys2Proof.Machine
end

