-- ==== Sys2Proof/Machine/Spl.lean ====
section
/-! DEFINITION. The SPL transform (41_spl.md R120 to R123): byte substitution, byte permutation, linear diffusion, and
their composition LPS. Pure functions of TABLES and a Block. -/

namespace Sys2Proof.Machine

/-- `SBOX[b]`. -/
def sboxAt (t : Tables) (b : Byte) : Byte := t.sbox[b.toNat]'b.isLt

/-- `PERM[i]`, for `i` in 0 .. 63. -/
def permAt (t : Tables) (i : Nat) : Nat := if h : i < 64 then (t.perm[i]'h).val else 0

/-- `LIN[j]`, for `j` in 0 .. 63. -/
def linAt (t : Tables) (j : Nat) : Segment := if h : j < 64 then t.lin[j]'h else 0#64

/-- `S(a)`: `out[i] <- SBOX[a[i]]` (R120). -/
def substitute (t : Tables) (a : Block) : Block := Block.ofBytes fun i => sboxAt t (Block.byte a i)

/-- `P(a)`: `out[i] <- a[PERM[i]]`, PERM naming the source position (R121; D28). -/
def permute (t : Tables) (a : Block) : Block := Block.ofBytes fun i => Block.byte a (permAt t i)

/-- The accumulator of one segment after bits `j = 0 .. k-1`, counted from the most significant: bit `j` set selects
`LIN[j]` (R122; D27). -/
def segmentAcc (t : Tables) (w : Segment) : Nat → Segment
  | 0 => 0#64
  | j + 1 => if w.getLsbD (63 - j) then segmentAcc t w j ^^^ linAt t j else segmentAcc t w j

/-- The linear layer on one segment: all 64 bits of `w` (R122). -/
def diffuseSegment (t : Tables) (w : Segment) : Segment := segmentAcc t w 64

/-- Segment `s` of a Block, `be64(a[8s], ..., a[8s+7])`: `a[8s]` is its most significant byte (R122; D29). -/
def Block.segment (a : Block) (s : Nat) : Segment := a.extractLsb' (64 * (7 - s)) 64

/-- The Block whose segments 0 .. k-1 are `f 0 .. f (k-1)`, in its `64 * k` low bits. -/
def Block.ofSegmentsUpTo (f : Nat → Segment) : Nat → Block
  | 0 => 0#512
  | k + 1 => (Block.ofSegmentsUpTo f k <<< 64) ||| (f k).setWidth 512

/-- The Block with segment `s` equal to `f s`, each serialized big-endian (R122). -/
def Block.ofSegments (f : Nat → Segment) : Block := Block.ofSegmentsUpTo f 8

/-- `L(a)`: the linear layer, each of the eight segments on its own (R122). -/
def diffuse (t : Tables) (a : Block) : Block := Block.ofSegments fun s => diffuseSegment t (Block.segment a s)

/-- `LPS(a) = L(P(S(a)))`: S first, L last (R123). -/
def lps (t : Tables) (a : Block) : Block := diffuse t (permute t (substitute t a))

end Sys2Proof.Machine
end

