-- ==== Sys2Proof/Machine/Cipher.lean ====
section
/-! DEFINITION. The key schedule, the E-Transformation and the compression function (42_cipher.md R140 to R146). The
working values of E are no state of the core (10_state.md R34): one sequencer step computes G as one pure function. -/

namespace Sys2Proof.Machine

/-- `RC[i]`, the round constant C_i, for `i` in 0 .. 11. -/
def rcAt (t : Tables) (i : Nat) : Block := if h : i < 12 then t.rc[i]'h else 0#512

/-- `KS(k, i) = LPS(X(k, RC[i]))`: one key-schedule step (R140). -/
def keyStep (t : Tables) (k : Block) (i : Nat) : Block := lps t (blockXor k (rcAt t i))

/-- Round key `K_i` of `Schedule(K0)`: `K_0 = K0` and `K_{i+1} = KS(K_i, i)` (R141). -/
def roundKey (t : Tables) (k0 : Block) : Nat → Block
  | 0 => k0
  | i + 1 => keyStep t (roundKey t k0 i) i

/-- `Schedule(K0)`: the 13 round keys K0 .. K12 in order (R141). -/
def schedule (t : Tables) (k0 : Block) : List Block := (List.range 13).map (roundKey t k0)

/-- The running pair of the inline E-Transformation (R142): the cipher state and the running key. -/
structure RoundState where
  state : Block
  key : Block
deriving DecidableEq, Repr

/-- One round `i`: LPS of the old state, then the new key, then XOR with the NEW key (R142). -/
def cipherRound (t : Tables) (i : Nat) (r : RoundState) : RoundState :=
  let key := keyStep t r.key i
  ⟨blockXor (lps t r.state) key, key⟩

/-- The running pair after rounds `0 .. k-1`, from `state = X(m, K)` and `key = K` (R142). -/
def cipherRounds (t : Tables) (k m : Block) : Nat → RoundState
  | 0 => ⟨blockXor m k, k⟩
  | i + 1 => cipherRound t i (cipherRounds t k m i)

/-- `E(K, m)`: the 12-round cipher in the source's inline form (R5 ROUNDS, R142). -/
def cipher (t : Tables) (k m : Block) : Block := (cipherRounds t k m 12).state

/-- `G(N, h, m)`: the key is `LPS(X(h, N))`, the result `E(key, m) XOR h XOR m` with the OLD `h` (R145). -/
def compress (t : Tables) (n h m : Block) : Block :=
  blockXor (blockXor (cipher t (lps t (blockXor h n)) m) h) m

end Sys2Proof.Machine
end

