-- ==== Sys2Proof/Machine/Hash.lean ====
section
/-! DEFINITION. The accumulators' update, and `HASH(msg)`, the reference function of the whole hash (45_commands.md
R171). -/

namespace Sys2Proof.Machine

/-- The three accumulators of a hash computation: h, N and Σ. -/
structure HashState where
  h : Block
  n : Block
  sigma : Block
deriving DecidableEq, Repr

/-- "Initial: h = 0, N = 0, Σ = 0" (R163, R171). -/
def HashState.initial : HashState := ⟨blk 0, blk 0, blk 0⟩

/-- Take in one block `m` that holds `bits` message bits: `h <- G(N, h, m)` with the OLD N and h, `N <- ADD(N, blk(bits))`,
`Σ <- ADD(Σ, m)`, all from the old values (R164, R167, R171). -/
def absorb (t : Tables) (c : HashState) (m : Block) (bits : Nat) : HashState where
  h := compress t c.n c.h m
  n := blockAdd c.n (blk bits)
  sigma := blockAdd c.sigma m

/-- `h <- G(blk(0), h, x)`: a finalization compression, whose counter argument is the zero Block; N and Σ stay (R146). -/
def finalize (t : Tables) (c : HashState) (x : Block) : HashState := { c with h := compress t (blk 0) c.h x }

/-- ConsumingFullBlocks, `k` times: the last 64 bytes of the unconsumed message, then the rest (R171). -/
def consumeFull (t : Tables) : Nat → List Byte → HashState → HashState
  | 0, _, c => c
  | k + 1, rem, c =>
    consumeFull t k (rem.take (rem.length - 64))
      (absorb t c (Block.ofByteList (rem.drop (rem.length - 64))) 512)

/-- The accumulators after ConsumingTail: every full block, last first, then the padded prefix (R171). -/
def afterTail (t : Tables) (msg : List Byte) : HashState :=
  let rem := msg.take (msg.length % 64)
  absorb t (consumeFull t (msg.length / 64) msg .initial) (pad rem) (8 * rem.length)

/-- `HASH(msg)` (R171). -/
def streebog (t : Tables) (msg : List Byte) : Block :=
  let c := afterTail t msg
  let c := finalize t c c.n
  (finalize t c c.sigma).h

end Sys2Proof.Machine
end

