-- ==== Sys2Proof/Machine/Ops.lean ====
section
/-! DEFINITION. The shared operations over the registers: error entry and the way out of it, the discarded write, the gate
every command passes, the issue latches, the commits of the sequencer, reset, and the host's view of the window. -/

namespace Sys2Proof.Machine

/-! ### Errors -/

/-- Error entry, the machine's one way of taking an exception: STATE ← ERROR and CODE ← c, nothing else (R204). Code 4 is
entered through it as well (R207). There is no saved pc and no vector (R8). -/
def State.enterError (s : State) (c : ErrorCode) : State := { s with engine := .error, code := c }

/-- A CMD or M write while BUSY = 1: discarded, and PEND ← 1; nothing else changes (R206). -/
def State.discardWrite (s : State) : State := { s with pend := true }

/-- PEND ← 0 (R207). -/
def State.clearPend (s : State) : State := { s with pend := false }

/-- `Complete()`, the final action of a command's last sequencer step: with PEND = 1 it clears PEND and enters ERROR with
code 4; the step's register updates stay (R207). -/
def State.complete (s : State) : State :=
  if s.pend then s.clearPend.enterError .busyWrite else s

/-! ### Issue -/

/-- The first two checks of Issue, for every word but INIT (R160, R205): with BUSY = 1 the write is discarded; in the
ERROR state it is ignored (R208); else `act`. -/
def State.gate (s : State) (act : State → State) : State :=
  if s.busy then s.discardWrite else if s.engine = .error then s else act s

/-- Issue of a word that decodes to ILLEGAL: ERR_ILLEGAL_CMD behind the gate (R160, R201). -/
def State.issueIllegal (s : State) : State := s.gate fun s => s.enterError .illegalCmd

/-- Issue of a word that decodes to BADLEN: ERR_TAIL_LEN behind the gate, whatever STATE is (R160, R202). -/
def State.issueBadLen (s : State) : State := s.gate fun s => s.enterError .tailLen

/-- The sequence check of BLOCK and TAIL behind the gate: outside FULL, ERR_SEQUENCE; in FULL, `act` (R160, R203). -/
def State.inSequence (s : State) (act : State → State) : State :=
  s.gate fun s => if s.engine = .full then act s else s.enterError .sequence

/-- `ExecINIT`: H, N and SIGMA ← blk(0), CODE ← 0, STATE ← FULL; M, BUSY, PEND and TLEN keep their values (R163). From ERROR
it is the only way out but for reset (R209): the return from an exception. -/
def State.startHash (s : State) : State :=
  { s with h := blk 0, n := blk 0, sigma := blk 0, code := .none, engine := .full }

/-- `IssueBLOCK`: BUSY ← 1, STATE stays FULL (R164). -/
def State.beginBlock (s : State) : State := { s with busy := true }

/-- `IssueTAIL(r)`: TLEN ← r, STATE ← TAIL, BUSY ← 1 (R165). -/
def State.beginTail (s : State) (r : Len) : State := { s with tlen := r, engine := .tail, busy := true }

/-! ### Sequencer commits -/

/-- The accumulators H, N, SIGMA as one value. -/
def State.chain (s : State) : HashState := ⟨s.h, s.n, s.sigma⟩

/-- H, N and SIGMA committed together (R37, R164, R167). -/
def State.commit (s : State) (c : HashState) : State := { s with h := c.h, n := c.n, sigma := c.sigma }

/-- STATE ← e, the machine's control transfer (R8). -/
def State.moveTo (s : State) (e : EngineState) : State := { s with engine := e }

/-- BUSY ← 0, by the last sequencer step of a command (R29). -/
def State.clearBusy (s : State) : State := { s with busy := false }

/-! ### Reset -/

/-- The Reset event: every register to its reset value, from any state; TABLES and the parameters stay (R240, R241). The
host's further accesses and the words it has read are the host's and stay too. -/
def State.applyReset (s : State) : State :=
  { State.resetWith s.config with events := s.events, reads := s.reads }

/-- `s` with `evs` as the events to come. -/
def State.withEvents (s : State) (evs : List Event) : State := { s with events := evs }

/-! ### The register window -/

/-- The size of the register window in bytes (R50). -/
def windowBytes : Nat := 0x200

/-- The window offset a host access of `bytes` bytes at bus address `addr` reaches, or why there is none: an address outside
the window does not reach the core (R50), and the window takes only 32-bit accesses at multiples of 4 (R57, R210). -/
def State.windowOffset (s : State) (addr bytes : Nat) : Except Fault Nat :=
  if s.config.coreBase ≤ addr ∧ addr < s.config.coreBase + windowBytes then
    if bytes = 4 ∧ (addr - s.config.coreBase) % 4 = 0 then .ok (addr - s.config.coreBase) else .error .accessFault
  else .error .outsideWindow

/-- `MemRead(off, 4)` (R55): the register map's word at an offset; CMD and the reserved offsets read as zero (R26, R51). -/
def State.readWindow (s : State) (off : Nat) : Word :=
  if off = 0x000 then 0#32
  else if off = 0x004 then s.statusWord
  else if 0x040 ≤ off ∧ off ≤ 0x07C then Block.word s.m ((off - 0x040) / 4)
  else if 0x080 ≤ off ∧ off ≤ 0x0BC then Block.word s.h ((off - 0x080) / 4)
  else if 0x0C0 ≤ off ∧ off ≤ 0x0FC then Block.word s.n ((off - 0x0C0) / 4)
  else if 0x100 ≤ off ∧ off ≤ 0x13C then Block.word s.sigma ((off - 0x100) / 4)
  else 0#32

/-- The read word handed to the host; no register changes (R55, R59). -/
def State.logRead (s : State) (v : Word) : State := { s with reads := v :: s.reads }

/-- M ← b. -/
def State.setM (s : State) (b : Block) : State := { s with m := b }

/-- A write of `v` to M_Wj: with BUSY = 0 the four bytes of word `j`, with BUSY = 1 discarded (R53, R56, R206). -/
def State.writeM (s : State) (j : Nat) (v : Word) : State :=
  if s.busy then s.discardWrite else s.setM (Block.setWord s.m j v)

end Sys2Proof.Machine
end

