-- ==== Sys2Proof/Machine/Commands.lean ====
section
/-! DEFINITION. The meanings of the three commands: what a CMD write that decodes to each does at once (45_commands.md R160,
R163 to R165). The work of BLOCK and TAIL is done by the sequencer's steps (Sequencer.lean). -/

namespace Sys2Proof.Machine

/-- INIT (R163): legal in every STATE, ERROR included; while BUSY it is discarded like any CMD write (R160, R206). -/
def execInit (s : State) : Host.Outcome State Fault Refusal :=
  .next (if s.busy then s.discardWrite else s.startHash)

/-- BLOCK (R164): in FULL it sets BUSY; outside FULL it is ERR_SEQUENCE (R203). -/
def execBlock (s : State) : Host.Outcome State Fault Refusal :=
  .next (s.inSequence State.beginBlock)

/-- TAIL r (R165): in FULL it latches TLEN and goes busy in TAIL; outside FULL it is ERR_SEQUENCE (R203). LEN above 63,
which the decoder gives as BADLEN and never as this command, is ERR_TAIL_LEN before the sequence check (R160, R202). -/
def execTail (len : Len) (s : State) : Host.Outcome State Fault Refusal :=
  .next (if len.toNat ≤ maxTailLen then s.inSequence fun s => s.beginTail len else s.issueBadLen)

end Sys2Proof.Machine
end

