-- ==== Sys2Proof/Machine/Operands.lean ====
section
/-! DEFINITION. The operands of the commands (30_encoding.md R83; 45_commands.md R164, R166). BLOCK's operand is the whole
of M; TAIL's are LEN and the tail bytes of M; INIT has none. -/

namespace Sys2Proof.Machine

/-- The tail operand of TAIL r: the bytes `M[64-r .. 63]` in message order (R83, R166). `M[0 .. 63-r]` is not read. -/
def tailBytes (m : Block) (r : Nat) : List Byte := (List.range r).map fun k => Block.byte m (64 - r + k)

/-- `m_last = PAD(M[64-r .. 63])`, the padded block that the TAIL step compresses (R166). -/
def tailBlock (m : Block) (r : Nat) : Block := pad (tailBytes m r)

end Sys2Proof.Machine
end

