-- ==== Sys2Proof/Machine/Sequencer.lean ====
section
/-! DEFINITION. The sequencer's four steps, each one atomic commit (45_commands.md R161, R162, R164, R167 to R169). -/

namespace Sys2Proof.Machine

/-- The BLOCK step (R164): M compressed with the old N and H; N grows by 512 bits, SIGMA by M; BUSY ← 0; Complete(). M is
kept. -/
def State.blockStep (s : State) : State :=
  ((s.commit (absorb s.config.tables s.chain s.m 512)).clearBusy).complete

/-- The TAIL step (R167): the padded tail of TLEN bytes compressed with the old N and H; N grows by 8·TLEN, SIGMA by the
padded block; STATE ← FINLEN. -/
def State.tailStep (s : State) : State :=
  (s.commit (absorb s.config.tables s.chain (tailBlock s.m s.tlen.toNat) (8 * s.tlen.toNat))).moveTo .finlen

/-- The FINLEN step (R168): `H <- G(blk(0), H, N)`; STATE ← FINSUM. -/
def State.finlenStep (s : State) : State :=
  (s.commit (finalize s.config.tables s.chain s.n)).moveTo .finsum

/-- The FINSUM step (R169): `H <- G(blk(0), H, SIGMA)`; STATE ← DONE; BUSY ← 0; Complete(), which may replace DONE. -/
def State.finsumStep (s : State) : State :=
  (((s.commit (finalize s.config.tables s.chain s.sigma)).moveTo .done).clearBusy).complete

/-- The sequencer's turn (R162): with BUSY = 0 it has no step and nothing happens; with BUSY = 1 STATE chooses the step. No
step is given for the other states, in which BUSY is never 1 (R36). -/
def State.sequencerTurn (s : State) : Host.Outcome State Fault Refusal :=
  if s.busy then
    match s.engine with
    | .full => .next s.blockStep
    | .tail => .next s.tailStep
    | .finlen => .next s.finlenStep
    | .finsum => .next s.finsumStep
    | .idle => .fault .sequencerStuck
    | .done => .fault .sequencerStuck
    | .error => .fault .sequencerStuck
  else .next s

end Sys2Proof.Machine
end

