-- ==== Sys2Proof/Machine/Port.lean ====
section
/-! DEFINITION. The host port: what one host access, a Reset event or a sequencer turn does (20_memory.md R55 to R57;
45_commands.md R160). This is the core's "fetch": a command arrives as a word written to CMD (R26, R35). -/

namespace Sys2Proof.Machine

/-- `Issue(v)`, the effect of a write of `v` to CMD (R160): the decoded command's meaning, or the error of a word that is no
command. The gates of exec and of the two errors make the order of the checks that of R205. -/
def State.issue (s : State) (v : Word) : Host.Outcome State Fault Refusal :=
  match decode v with
  | .instr i => exec i s
  | .badLen _ => .next s.issueBadLen
  | .illegal => .next s.issueIllegal

/-- `MemWrite(off, 4, v)` (R56): CMD issues, M is written, every other offset ignores the write. -/
def State.writeWindow (s : State) (off : Nat) (v : Word) : Host.Outcome State Fault Refusal :=
  if off = 0x000 then s.issue v
  else if 0x040 ≤ off ∧ off ≤ 0x07C then .next (s.writeM ((off - 0x040) / 4) v)
  else .next s

/-- What one event does. -/
def State.handle (s : State) : Event → Host.Outcome State Fault Refusal
  | .read addr bytes =>
    match s.windowOffset addr bytes with
    | .ok off => .next (s.logRead (s.readWindow off))
    | .error f => .fault f
  | .write addr bytes v =>
    match s.windowOffset addr bytes with
    | .ok off => s.writeWindow off v
    | .error f => .fault f
  | .reset => .next s.applyReset
  | .sequencer => s.sequencerTurn

/-- The host write of `v` to CMD, at CORE_BASE + 0x000 (R51). -/
def State.cmdWrite (s : State) (v : Word) : Event := .write s.config.coreBase 4 v

end Sys2Proof.Machine
end

