-- ==== Sys2Proof/Machine/Step.lean ====
section
/-! DEFINITION. One step of the machine, and the interface by which a command comes to be the next one run. -/

namespace Sys2Proof.Machine

/-- One step: the next event of the run, consumed before it acts; when none is left, the sequencer moves, so that every
issued command completes (R250), and with BUSY = 0 the core is idle and keeps all state (R214). -/
def step (s : State) : Host.Outcome State Fault Refusal :=
  match s.events with
  | [] => s.sequencerTurn
  | e :: rest => (s.withEvents rest).handle e

/-- `s` with the host's write of the command word `w` to CMD as its next event (assumption 8). -/
def State.withFetchWord (s : State) (nbits w : Nat) : State :=
  s.withEvents (s.cmdWrite (BitVec.ofNat 32 (w % 2 ^ nbits)) :: s.events)

end Sys2Proof.Machine
end

