-- ==== Sys2Proof/Machine/Driver.lean ====
section
/-! DEFINITION. The host programs of the spec (30_encoding.md R85, R86; 45_commands.md R172) and how a host and its core run
together: the pseudo-instructions without a loop are lists of accesses, WAIT is a loop on what it reads, and a schedule says
which agent moves next (20_memory.md R60; assumption 15). -/

namespace Sys2Proof.Machine

/-- `WR off, v` (R85). -/
def wr (base off : Nat) (v : Word) : Event := .write (base + off) 4 v

/-- `RD rd, off` (R85). -/
def rd (base off : Nat) : Event := .read (base + off) 4

/-- The command line of an instruction: `WR CMD, <its word>` (R85). -/
def command (base : Nat) (i : Instr) : Event := wr base 0x000 (encode i)

/-- `LDM b`: `WR M_W0, word_0(b)` ... `WR M_W15, word_15(b)`, in that order (R86). -/
def ldm (base : Nat) (b : Block) : List Event :=
  (List.range 16).map fun j => wr base (0x040 + 4 * j) (Block.word b j)

/-- The block `zeros(64-r) || t` (R86): a tail right-justified. -/
def rightJustified (t : List Byte) : Block :=
  Block.ofByteList (List.replicate (64 - t.length) 0x00#8 ++ t)

/-- `LDT t` (R86). -/
def ldt (base : Nat) (t : List Byte) : List Event := ldm base (rightJustified t)

/-- `RDH d`: the reads of H_W0 .. H_W15 (R86). -/
def rdh (base : Nat) : List Event := (List.range 16).map fun j => rd base (0x080 + 4 * j)

/-- The block `d = d0 || ... || dk` that the last `k` reads give, from a list of read words, newest first (R86). -/
def readBlock : List Word → Block
  | [] => 0#512
  | w :: older => (readBlock older <<< 32) ||| w.setWidth 512

/-! ### Host programs with WAIT, and their runs -/

/-- One line of a host program: a single host access, or `WAIT`, the loop `L: RD s, STATUS ; if s[8] == 1 goto L` on the core
at `base` (R85, R86). -/
inductive HostOp where
  | access (e : Event)
  | wait (base : Nat)
deriving DecidableEq, Repr

/-- The access a line makes at one turn of the host. -/
def HostOp.event : HostOp → Event
  | .access e => e
  | .wait base => rd base 0x004

/-- The host makes the line again: it is WAIT and bit 8 of the word it has just read, BUSY, is 1. `t` is the core after the
access. -/
def HostOp.repeats (t : State) : HostOp → Bool
  | .access _ => false
  | .wait _ => (t.reads.headD 0#32).getLsbD 8

/-- The two agents that move on their own (R20). -/
inductive Agent where
  | host
  | sequencer
deriving DecidableEq, Repr

/-- A core and what is left of its host's program. -/
structure Hosted where
  program : List HostOp
  core : State
deriving DecidableEq, Repr

/-- One turn of one agent (R60): the sequencer's turn leaves the program as it is; the host makes the access of its first line,
and goes on to the next line unless this one repeats. A host with no line left does nothing. -/
def Hosted.turn (p : Hosted) : Agent → Host.Outcome Hosted Fault Refusal
  | .sequencer =>
    match step (p.core.withEvents [.sequencer]) with
    | .next t => .next ⟨p.program, t⟩
    | .fault f => .fault f
    | .refused r => .refused r
  | .host =>
    match p.program with
    | [] => .next p
    | op :: rest =>
      match step (p.core.withEvents [op.event]) with
      | .next t => .next ⟨if op.repeats t then op :: rest else rest, t⟩
      | .fault f => .fault f
      | .refused r => .refused r

/-- The turns of a finite schedule, one after another (R60). -/
def Hosted.play (p : Hosted) : List Agent → Host.Outcome Hosted Fault Refusal
  | [] => .next p
  | a :: sched =>
    match p.turn a with
    | .next q => q.play sched
    | .fault f => .fault f
    | .refused r => .refused r

/-- The driver's loop after INIT: for `k` full blocks, the last of the unsent message first, WAIT, LDM and BLOCK (R172). -/
def driveBlocks (base : Nat) : Nat → List Byte → List HostOp
  | 0, _ => []
  | k + 1, rem =>
    .wait base :: (ldm base (Block.ofByteList (rem.drop (rem.length - 64)))).map .access ++
      .access (command base .block) :: driveBlocks base k (rem.take (rem.length - 64))

/-- `HASHMSG msg` (R86, R172): INIT; the full blocks, last 64 bytes first; WAIT; LDT of the prefix; TAIL r; WAIT; RD STATUS;
RDH. -/
def hashMsg (base : Nat) (msg : List Byte) : List HostOp :=
  let tail := msg.take (msg.length % 64)
  .access (command base .init) :: driveBlocks base (msg.length / 64) msg ++
    .wait base :: (ldt base tail).map .access ++
    .access (command base (.tail (BitVec.ofNat 7 tail.length))) ::
      .wait base :: .access (rd base 0x004) :: (rdh base).map .access

end Sys2Proof.Machine
end

