-- ==== Sys2Proof/Safety.lean ====
section
/-! DEFINITION. The terms in which claims speak of good states and runs: the invariants of 10_state.md R36, R32, and a run
that no host access stops. -/

namespace Sys2Proof.Machine

/-- The states in which BUSY may be 1 (R36). -/
def EngineState.mayBeBusy (e : EngineState) : Bool :=
  e == .full || e == .tail || e == .finlen || e == .finsum

/-- The states in which BUSY is 1 (R36). -/
def EngineState.mustBeBusy (e : EngineState) : Bool :=
  e == .tail || e == .finlen || e == .finsum

/-- The invariants of R36, in its order, and the bound of TLEN (R32). The third bullet of R36 is the first one read
backwards. -/
structure State.Inv (s : State) : Prop where
  busy_engine : s.busy = true → s.engine.mayBeBusy = true
  engine_busy : s.engine.mustBeBusy = true → s.busy = true
  pend_busy : s.pend = true → s.busy = true
  code_error : s.code ≠ .none ↔ s.engine = .error
  tlen_le : s.tlen.toNat ≤ maxTailLen

/-- The event is a host access that the window takes: inside it, 32 bits wide and aligned (R50, R57); Reset and sequencer
turns always are. -/
def State.accepts (s : State) : Event → Bool
  | .read addr bytes => (s.windowOffset addr bytes).isOk
  | .write addr bytes _ => (s.windowOffset addr bytes).isOk
  | .reset => true
  | .sequencer => true

/-- Every event still to come is one the window takes. -/
def State.accessesLegal (s : State) : Prop := ∀ e ∈ s.events, s.accepts e = true

/-- `s` built with other latencies. -/
def State.withLatencies (s : State) (block tail : Nat) : State :=
  { s with config := { s.config with blockLatency := block, tailLatency := tail } }

/-- `s` run through all the events `evs`, one step for each. -/
def State.runEvents (s : State) (evs : List Event) : Host.Outcome State Fault Refusal :=
  Host.Core.run Sys2Proof.core evs.length (s.withEvents evs)

/-- A fair schedule: the host and the sequencer each move again and again (20_memory.md R60, 70_reset_and_hazards.md R250).
Nothing bounds how long either waits. -/
def FairSchedule (sched : Nat → Agent) : Prop := ∀ (a : Agent) (k : Nat), ∃ j, k ≤ j ∧ sched j = a

/-- The first `k` turns of a schedule. -/
def firstTurns (sched : Nat → Agent) (k : Nat) : List Agent := (List.range k).map sched

end Sys2Proof.Machine
end

