-- ==== Sys2Proof/Certificates/Slice0/Obligations.lean ====
section
/-! DEFINITION. The statements for the provers. Each docstring names the rules of spec/ it formalises. A next state is
written as the old state with the fields that change, so each such equation is also the statement's frame: every register,
latch and parameter it does not name is unchanged, and with them every word of the register window. -/

open Sys2Proof Sys2Proof.Machine

/-! ### Decoding and encoding -/

/-- R80, R81: every command's word decodes to that command, with every legal LEN. -/
def Obligations.DecodeOfEncode : Prop :=
  ∀ i : Instr, i.wellFormed = true → decode (encode i) = .instr i

/-- R81, R82: every word decodes to exactly one of INIT, BLOCK, TAIL(r), BADLEN(r) and ILLEGAL, and which words decode to
each. -/
def Obligations.EveryWordDecodesToOneKind : Prop :=
  ∀ v : Word,
    (decode v = .instr .init ↔ v = 0x00000001#32) ∧
    (decode v = .instr .block ↔ v = 0x00000002#32) ∧
    (∀ r : Len, decode v = .instr (.tail r) ↔ r.toNat ≤ 63 ∧ v = 0x00000003#32 ||| (r.setWidth 32 <<< 8)) ∧
    (∀ r : Len, decode v = .badLen r ↔ 64 ≤ r.toNat ∧ v = 0x00000003#32 ||| (r.setWidth 32 <<< 8)) ∧
    (decode v = .illegal ↔
      v ≠ 0x00000001#32 ∧ v ≠ 0x00000002#32 ∧ ∀ r : Len, v ≠ 0x00000003#32 ||| (r.setWidth 32 <<< 8))

/-- R82 and 95_test_vectors.md section 2.13: words written out from the encoding, and what they decode to. -/
def Obligations.SampleWordsDecode : Prop :=
  decode 0b00000000000000000000000000000001#32 = .instr .init ∧
  decode 0b00000000000000000000000000000010#32 = .instr .block ∧
  decode 0b00000000000000000000000000000011#32 = .instr (.tail 0) ∧
  decode 0b00000000000000000000100000000011#32 = .instr (.tail 8) ∧
  decode 0b00000000000000000011111100000011#32 = .instr (.tail 63) ∧
  decode 0b00000000000000000100000000000011#32 = .badLen 64 ∧
  decode 0b00000000000000000111111100000011#32 = .badLen 127 ∧
  decode 0b00000000000000001000000000000011#32 = .illegal ∧
  decode 0b00000000000000000000000000010011#32 = .illegal ∧
  decode 0b00000000000000000000000100000001#32 = .illegal ∧
  decode 0b00000000000000000000000000000000#32 = .illegal

/-! ### A step runs the decoded command -/

/-- R26, R160: when the next event is a host write of `v` to CMD and `v` decodes to `i`, the step is exec of `i` on the
state with that event consumed. Nothing else happens around it. -/
def Obligations.StepRunsDecodedCommand : Prop :=
  ∀ (s : State) (v : Word) (rest : List Event) (i : Instr),
    s.events = s.cmdWrite v :: rest → decode v = .instr i → step s = exec i (s.withEvents rest)

/-- R26: a command placed by withFetchWord is what the very next step runs, on the state it was placed in. That a program comes
as host writes from outside is assumption 8. -/
def Obligations.PlacedCommandIsRunNext : Prop :=
  ∀ (s : State) (i : Instr), i.wellFormed = true → step (s.withFetchWord 32 (encode i).toNat) = exec i s

/-- R60, R162, R250: with no event left, or at a sequencer turn, the step is the sequencer's. The list of
events is the model's form of the schedule (assumption 1, DESIGN CHOICE). -/
def Obligations.SequencerMovesWhenScheduled : Prop :=
  ∀ s : State, (s.events = [] → step s = s.sequencerTurn) ∧
    (∀ rest, s.events = .sequencer :: rest → step s = (s.withEvents rest).sequencerTurn)

/-! ### The commands -/

/-- R163: INIT with BUSY = 0, in any STATE: H = N = SIGMA = blk(0), CODE = 0, STATE = FULL; nothing else changes. -/
def Obligations.InitStartsHash : Prop :=
  ∀ s : State, s.busy = false →
    exec .init s = .next { s with h := blk 0, n := blk 0, sigma := blk 0, code := .none, engine := .full }

/-- R164: BLOCK in FULL with BUSY = 0 sets BUSY and nothing else. -/
def Obligations.BlockIssueSetsBusy : Prop :=
  ∀ s : State, s.busy = false → s.engine = .full → exec .block s = .next { s with busy := true }

/-- R165: TAIL r in FULL with BUSY = 0 and r <= 63 latches TLEN, moves to TAIL and sets BUSY, and nothing else. -/
def Obligations.TailIssueLatchesLength : Prop :=
  ∀ (s : State) (r : Len), s.busy = false → s.engine = .full → r.toNat ≤ 63 →
    exec (.tail r) s = .next { s with tlen := r, engine := .tail, busy := true }

/-- R161, R163 to R165: what a command's issue never touches, whatever becomes of it: M, the parameters, the words read;
H, N and SIGMA but for INIT; so every word of the window but STATUS and, for INIT, H, N and SIGMA. -/
def Obligations.CommandIssueFrame : Prop :=
  ∀ (s t : State) (i : Instr), exec i s = .next t →
    t.m = s.m ∧ t.config = s.config ∧ t.reads = s.reads ∧ t.events = s.events ∧
    (i ≠ .init → t.h = s.h ∧ t.n = s.n ∧ t.sigma = s.sigma) ∧
    (∀ off, off ≠ 0x004 → (i = .init → off < 0x080 ∨ 0x140 ≤ off) → t.readWindow off = s.readWindow off)

/-- R163: after INIT with BUSY = 0 nothing is left of the old H, N, SIGMA, STATE and CODE: two states that agree in everything
else but TLEN come to the same state but for TLEN. M and TABLES, which R38 lets survive, are assumed equal. That INIT keeps the
hidden TLEN as well, which R38 does not say, is assumption 13 (DEDUCED). -/
def Obligations.InitForgetsTheOldHash : Prop :=
  ∀ s s' : State, s.busy = false → s'.busy = false → s.pend = s'.pend → s.m = s'.m → s.config = s'.config →
    s.events = s'.events → s.reads = s'.reads →
    ∃ t t', exec .init s = .next t ∧ exec .init s' = .next t' ∧ t = { t' with tlen := t.tlen }

/-! ### Errors -/

/-- R160, R205: everything a write to CMD does, check by check in the order of R205. -/
def Obligations.IssueChecksInOrder : Prop :=
  ∀ (s : State) (v : Word) (rest : List Event), s.events = s.cmdWrite v :: rest →
    step s = .next (
      if s.busy then { s with events := rest, pend := true }
      else if s.engine = .error ∧ v ≠ 0x00000001#32 then { s with events := rest }
      else match decode v with
        | .illegal => { s with events := rest, engine := .error, code := .illegalCmd }
        | .badLen _ => { s with events := rest, engine := .error, code := .tailLen }
        | .instr .init =>
          { s with events := rest, h := blk 0, n := blk 0, sigma := blk 0, code := .none, engine := .full }
        | .instr .block =>
          if s.engine = .full then { s with events := rest, busy := true }
          else { s with events := rest, engine := .error, code := .sequence }
        | .instr (.tail r) =>
          if s.engine = .full then { s with events := rest, tlen := r, engine := .tail, busy := true }
          else { s with events := rest, engine := .error, code := .sequence })

/-- R84, R201, R202: which words raise ERR_ILLEGAL_CMD and which ERR_TAIL_LEN, in every STATE but ERROR, by their fields;
nothing but STATE and CODE changes (R204). -/
def Obligations.IllegalWordsRaiseErrors : Prop :=
  ∀ (s : State) (v : Word) (rest : List Event), s.busy = false → s.engine ≠ .error →
    s.events = s.cmdWrite v :: rest →
    ((opField v ≠ 1#4 ∧ opField v ≠ 2#4 ∧ opField v ≠ 3#4) ∨
      ((opField v = 1#4 ∨ opField v = 2#4) ∧ v.extractLsb' 4 28 ≠ 0#28) ∨
      (opField v = 3#4 ∧ (v.extractLsb' 4 4 ≠ 0#4 ∨ v.extractLsb' 15 17 ≠ 0#17)) →
      step s = .next { s with events := rest, engine := .error, code := .illegalCmd }) ∧
    (opField v = 3#4 ∧ v.extractLsb' 4 4 = 0#4 ∧ v.extractLsb' 15 17 = 0#17 ∧ 64 ≤ (lenField v).toNat →
      step s = .next { s with events := rest, engine := .error, code := .tailLen })

/-- R203: BLOCK, or TAIL r with r <= 63, in IDLE or DONE with BUSY = 0 raises ERR_SEQUENCE; nothing else changes. -/
def Obligations.CommandsOutOfSequence : Prop :=
  ∀ (s : State) (i : Instr), i.wellFormed = true → i ≠ .init → s.busy = false →
    (s.engine = .idle ∨ s.engine = .done) →
    exec i s = .next { s with engine := .error, code := .sequence }

/-- R206: with BUSY = 1 a write of any word to CMD or to a word of M only sets PEND, however often it is made; a write to
any other offset of the window changes nothing. -/
def Obligations.BusyWritesAreDiscarded : Prop :=
  ∀ (s : State) (off : Nat) (v : Word) (rest : List Event), s.busy = true → off < 0x200 → off % 4 = 0 →
    s.events = .write (s.config.coreBase + off) 4 v :: rest →
    step s = .next (if off = 0x000 ∨ (0x040 ≤ off ∧ off ≤ 0x07C) then { s with events := rest, pend := true }
      else { s with events := rest })

/-- R208: while STATE = ERROR (and so BUSY = 0) a CMD write of INIT executes it, any other CMD word changes nothing, M may
be written and read, H, N and SIGMA may be read, and the sequencer has no step. -/
def Obligations.ErrorStateBehaviour : Prop :=
  ∀ s : State, s.engine = .error → s.busy = false →
    (∀ v rest, s.events = s.cmdWrite v :: rest → step s = .next (if v = 0x00000001#32
      then { s with events := rest, h := blk 0, n := blk 0, sigma := blk 0, code := .none, engine := .full }
      else { s with events := rest })) ∧
    (∀ j v rest, j < 16 → s.events = .write (s.config.coreBase + (0x040 + 4 * j)) 4 v :: rest →
      step s = .next { s with events := rest, m := Block.setWord s.m j v }) ∧
    (∀ j rest, j < 16 → s.events = .read (s.config.coreBase + (0x040 + 4 * j)) 4 :: rest →
      step s = .next { s with events := rest, reads := Block.word s.m j :: s.reads }) ∧
    (∀ j rest, j < 16 → s.events = .read (s.config.coreBase + (0x080 + 4 * j)) 4 :: rest →
      step s = .next { s with events := rest, reads := Block.word s.h j :: s.reads }) ∧
    (∀ j rest, j < 16 → s.events = .read (s.config.coreBase + (0x0C0 + 4 * j)) 4 :: rest →
      step s = .next { s with events := rest, reads := Block.word s.n j :: s.reads }) ∧
    (∀ j rest, j < 16 → s.events = .read (s.config.coreBase + (0x100 + 4 * j)) 4 :: rest →
      step s = .next { s with events := rest, reads := Block.word s.sigma j :: s.reads }) ∧
    s.sequencerTurn = .next s

/-- R209: a step leaves ERROR only at the host's write of INIT to CMD, which gives STATE = FULL and CODE = 0, or at Reset;
at every other step STATE and CODE stay, so errors do not nest. -/
def Obligations.ErrorLeftOnlyByInitOrReset : Prop :=
  ∀ s t : State, s.engine = .error → s.busy = false → step s = .next t →
    (t.engine = .error ∧ t.code = s.code) ∨
    (s.events.head? = some (s.cmdWrite 0x00000001#32) ∧ t.engine = .full ∧ t.code = .none) ∨
    (s.events.head? = some .reset ∧ t.engine = .idle ∧ t.code = .none)

/-! ### The register window -/

/-- R27, R55: every bit of the STATUS word. -/
def Obligations.StatusWordFields : Prop :=
  ∀ s : State,
    (s.readWindow 0x004).extractLsb' 0 3 = s.engine.bits ∧
    (s.readWindow 0x004).extractLsb' 3 5 = 0#5 ∧
    (s.readWindow 0x004).getLsbD 8 = s.busy ∧
    (s.readWindow 0x004).getLsbD 9 = decide (s.engine = .error) ∧
    (s.readWindow 0x004).getLsbD 10 = decide (s.engine = .done) ∧
    (s.readWindow 0x004).getLsbD 11 = s.pend ∧
    (s.readWindow 0x004).extractLsb' 12 4 = s.code.bits ∧
    (s.readWindow 0x004).extractLsb' 16 16 = 0#16

/-- R55 with R52: a 32-bit read at an aligned offset of the window hands the host one word and changes nothing else; the
word is the one the register map gives, word `j` of a Block being its bytes `4j .. 4j+3` with byte `4j` in bits 31..24. -/
def Obligations.ReadsFollowTheRegisterMap : Prop :=
  ∀ (s : State) (off : Nat) (rest : List Event), off < 0x200 → off % 4 = 0 →
    s.events = .read (s.config.coreBase + off) 4 :: rest →
    ∃ v : Word, step s = .next { s with events := rest, reads := v :: s.reads } ∧
      (off = 0x000 → v = 0#32) ∧
      (off = 0x004 → v = (s.code.bits.setWidth 32 <<< 12) ||| ((BitVec.ofBool s.pend).setWidth 32 <<< 11) |||
        ((BitVec.ofBool (decide (s.engine = .done))).setWidth 32 <<< 10) |||
        ((BitVec.ofBool (decide (s.engine = .error))).setWidth 32 <<< 9) |||
        ((BitVec.ofBool s.busy).setWidth 32 <<< 8) ||| s.engine.bits.setWidth 32) ∧
      (∀ (base : Nat) (b : Block), (base = 0x040 ∧ b = s.m) ∨ (base = 0x080 ∧ b = s.h) ∨ (base = 0x0C0 ∧ b = s.n) ∨
          (base = 0x100 ∧ b = s.sigma) →
        ∀ j < 16, off = base + 4 * j →
          v = ((Block.byte b (4 * j)).setWidth 32 <<< 24) ||| ((Block.byte b (4 * j + 1)).setWidth 32 <<< 16) |||
            ((Block.byte b (4 * j + 2)).setWidth 32 <<< 8) ||| (Block.byte b (4 * j + 3)).setWidth 32) ∧
      ((0x008 ≤ off ∧ off ≤ 0x03C) ∨ 0x140 ≤ off → v = 0#32)

/-- R53: a write of `v` to M_Wj with BUSY = 0 sets the four bytes of word `j` from the four bytes of `v`, most significant
first, and changes no other byte of M and nothing else; the word reads back. With BUSY = 1 it only sets PEND. -/
def Obligations.MessageWordWrite : Prop :=
  ∀ (s : State) (j : Nat) (v : Word) (rest : List Event), j < 16 →
    s.events = .write (s.config.coreBase + (0x040 + 4 * j)) 4 v :: rest →
    (s.busy = false → ∃ b : Block, step s = .next { s with events := rest, m := b } ∧
      Block.byte b (4 * j) = v.extractLsb' 24 8 ∧ Block.byte b (4 * j + 1) = v.extractLsb' 16 8 ∧
      Block.byte b (4 * j + 2) = v.extractLsb' 8 8 ∧ Block.byte b (4 * j + 3) = v.extractLsb' 0 8 ∧
      (∀ k < 64, k / 4 ≠ j → Block.byte b k = Block.byte s.m k) ∧
      ({ s with m := b } : State).readWindow (0x040 + 4 * j) = v) ∧
    (s.busy = true → step s = .next { s with events := rest, pend := true })

/-- R51, R56: a write to an aligned offset of the window that is neither CMD nor a word of M changes nothing. -/
def Obligations.WritesElsewhereAreIgnored : Prop :=
  ∀ (s : State) (off : Nat) (v : Word) (rest : List Event), off < 0x200 → off % 4 = 0 → off ≠ 0x000 →
    (off < 0x040 ∨ 0x07C < off) → s.events = .write (s.config.coreBase + off) 4 v :: rest →
    step s = .next { s with events := rest }

/-- R57, R210: an access inside the window that is not 32 bits wide or not aligned is ACCESS_FAULT. That it
stops the model is what R210 and U7 ask for (assumption 10). -/
def Obligations.BadAccessIsAccessFault : Prop :=
  ∀ (s : State) (off bytes : Nat) (v : Word) (rest : List Event), off < 0x200 → (bytes ≠ 4 ∨ off % 4 ≠ 0) →
    (s.events = .read (s.config.coreBase + off) bytes :: rest ∨
      s.events = .write (s.config.coreBase + off) bytes v :: rest) →
    step s = .fault .accessFault

/-- R50 and assumption 6 (DESIGN CHOICE): an access that does not reach the core stops the model under its own name. -/
def Obligations.AccessOutsideTheWindowStops : Prop :=
  ∀ (s : State) (addr bytes : Nat) (v : Word) (rest : List Event),
    (addr < s.config.coreBase ∨ s.config.coreBase + 0x200 ≤ addr) →
    (s.events = .read addr bytes :: rest ∨ s.events = .write addr bytes v :: rest) →
    step s = .fault .outsideWindow

/-- R52: the sixteen words of a Block, word 0 first, joined as one 512-bit big-endian number are the Block. -/
def Obligations.WordsJoinToTheBlock : Prop :=
  ∀ b : Block, readBlock ((List.range 16).map (Block.word b)).reverse = b

/-- R86: LDM loads the whole of M from any contents, in sixteen writes, and changes nothing else. -/
def Obligations.LdmLoadsTheBlock : Prop :=
  ∀ (s : State) (b : Block), s.busy = false →
    s.runEvents (ldm s.config.coreBase b) = .next { s with events := [], m := b }

/-- R86, R166: LDT places a tail of at most 63 bytes so that TAIL's operand is exactly that tail. -/
def Obligations.LdtPlacesTheTail : Prop :=
  ∀ t : List Byte, t.length ≤ 63 → tailBytes (rightJustified t) t.length = t

/-- R86: the sixteen reads of RDH with no sequencer turn among them read H, and change nothing of the core. This is one
schedule (assumption 1): with BUSY = 1 a sequencer turn among the reads may tear the block (R58, R246), and then RDH is
meaningful only after WAIT. -/
def Obligations.RdhReadsH : Prop :=
  ∀ s : State, ∃ ws : List Word, ws.length = 16 ∧ readBlock ws = s.h ∧
    s.runEvents (rdh s.config.coreBase) = .next { s with events := [], reads := ws ++ s.reads }

/-! ### The sequencer -/

/-- R164, R207: the BLOCK step. -/
def Obligations.BlockStepCommits : Prop :=
  ∀ s : State, s.busy = true → s.engine = .full →
    s.sequencerTurn = .next { s with
      h := compress s.config.tables s.n s.h s.m
      n := blockAdd s.n (blk 512)
      sigma := blockAdd s.sigma s.m
      busy := false
      pend := false
      engine := if s.pend then .error else .full
      code := if s.pend then .busyWrite else s.code }

/-- R166, R167: the TAIL step. -/
def Obligations.TailStepCommits : Prop :=
  ∀ s : State, s.busy = true → s.engine = .tail →
    s.sequencerTurn = .next { s with
      h := compress s.config.tables s.n s.h (tailBlock s.m s.tlen.toNat)
      n := blockAdd s.n (blk (8 * s.tlen.toNat))
      sigma := blockAdd s.sigma (tailBlock s.m s.tlen.toNat)
      engine := .finlen }

/-- R168: the FINLEN step. -/
def Obligations.FinlenStepCommits : Prop :=
  ∀ s : State, s.busy = true → s.engine = .finlen →
    s.sequencerTurn = .next { s with
      h := compress s.config.tables (blk 0) s.h s.n
      engine := .finsum }

/-- R169, R207: the FINSUM step. -/
def Obligations.FinsumStepCommits : Prop :=
  ∀ s : State, s.busy = true → s.engine = .finsum →
    s.sequencerTurn = .next { s with
      h := compress s.config.tables (blk 0) s.h s.sigma
      busy := false
      pend := false
      engine := if s.pend then .error else .done
      code := if s.pend then .busyWrite else s.code }

/-- R162: in every state of the invariant the sequencer has a step exactly when BUSY = 1: with BUSY = 0 its turn changes
nothing, with BUSY = 1 it changes the state. -/
def Obligations.SequencerEnabledExactlyWhenBusy : Prop :=
  ∀ s : State, s.Inv → ∃ t, s.sequencerTurn = .next t ∧ (t = s ↔ s.busy = false)

/-- R165 to R169: an issued TAIL, left alone, takes three sequencer steps: the digest path H, the message length in N, the
checksum in SIGMA; DONE, or ERROR with code 4 where a write was discarded before. That the sequencer moves once no event is left
is the model's form of R250's fairness (assumption 1, DESIGN CHOICE). -/
def Obligations.TailRunsToTheDigest : Prop :=
  ∀ s : State, s.busy = true → s.engine = .tail → s.events = [] →
    Host.Core.run Sys2Proof.core 3 s = .next { s with
      h := compress s.config.tables (blk 0)
        (compress s.config.tables (blk 0)
          (compress s.config.tables s.n s.h (tailBlock s.m s.tlen.toNat))
          (blockAdd s.n (blk (8 * s.tlen.toNat))))
        (blockAdd s.sigma (tailBlock s.m s.tlen.toNat))
      n := blockAdd s.n (blk (8 * s.tlen.toNat))
      sigma := blockAdd s.sigma (tailBlock s.m s.tlen.toNat)
      busy := false
      pend := false
      engine := if s.pend then .error else .done
      code := if s.pend then .busyWrite else s.code }

/-- R161, R162: while BUSY = 1 no host access changes an operand of the running command, its result or its place: each
step's result is fixed when the command is issued. -/
def Obligations.HostCannotDisturbABusyCommand : Prop :=
  ∀ s t : State, s.busy = true → step s = .next t →
    ((∃ addr bytes, s.events.head? = some (.read addr bytes)) ∨
      ∃ addr bytes v, s.events.head? = some (.write addr bytes v)) →
    t.h = s.h ∧ t.n = s.n ∧ t.sigma = s.sigma ∧ t.m = s.m ∧ t.engine = s.engine ∧ t.busy = true ∧ t.code = s.code ∧
      t.tlen = s.tlen ∧ t.config = s.config

/-- R161, R250: from every state of the invariant whose accesses to come are legal, once they are made and the sequencer
has had at most three more turns, every issued command has completed (the fairness of R250 in the form of assumption 1, DESIGN
CHOICE). -/
def Obligations.IssuedCommandsComplete : Prop :=
  ∀ s : State, s.Inv → s.accessesLegal →
    ∃ t, Host.Core.run Sys2Proof.core (s.events.length + 3) s = .next t ∧ t.busy = false ∧ t.events = []

/-! ### Invariants and whole-machine rules -/

/-- R36, R32: every step keeps the invariants. -/
def Obligations.StepKeepsInvariant : Prop :=
  ∀ s t : State, s.Inv → step s = .next t → t.Inv

/-- R36, R240: the invariants hold after reset, with any parameters. -/
def Obligations.InvariantHoldsAtReset : Prop :=
  State.reset.Inv ∧ ∀ c : Config, (State.resetWith c).Inv

/-- R36, R57: a state of the invariant whose accesses to come are legal always has a next state of the same kind, so no
fault and no refusal ever stops such a run. -/
def Obligations.LegalRunsNeverStop : Prop :=
  ∀ s : State, s.Inv → s.accessesLegal → ∃ t, step s = .next t ∧ t.Inv ∧ t.accessesLegal

/-- R33: no step changes TABLES, or any other parameter of the core. -/
def Obligations.ParametersNeverChange : Prop :=
  ∀ s t : State, step s = .next t → t.config = s.config

/-- R250: no step depends on the latencies. -/
def Obligations.LatenciesAreUnobservable : Prop :=
  ∀ (s : State) (a b : Nat), step (s.withLatencies a b) =
    match step s with
    | .next t => .next (t.withLatencies a b)
    | .fault f => .fault f
    | .refused r => .refused r

/-- R22 to R24, R37: H, N and SIGMA change only by a sequencer step with BUSY = 1, by the host's INIT with BUSY = 0, or by
Reset. -/
def Obligations.AccumulatorWriters : Prop :=
  ∀ s t : State, step s = .next t → (t.h ≠ s.h ∨ t.n ≠ s.n ∨ t.sigma ≠ s.sigma) →
    (s.busy = true ∧ (s.events = [] ∨ s.events.head? = some .sequencer)) ∨
    (s.busy = false ∧ s.events.head? = some (s.cmdWrite 0x00000001#32)) ∨
    s.events.head? = some .reset

/-- R25: M changes only by a host write to one of its words with BUSY = 0, or by Reset. -/
def Obligations.MessageWriters : Prop :=
  ∀ s t : State, step s = .next t → t.m ≠ s.m →
    (s.busy = false ∧ ∃ j v, j < 16 ∧ s.events.head? = some (.write (s.config.coreBase + (0x040 + 4 * j)) 4 v)) ∨
    s.events.head? = some .reset

/-- R28: every change of STATE by a step from a state of the invariant is one of the table's: INIT from any resting state,
the issue of TAIL, the three sequencer moves, error entry, or Reset. -/
def Obligations.StateTransitions : Prop :=
  ∀ s t : State, s.Inv → step s = .next t → t.engine ≠ s.engine →
    (t.engine = .full ∧ s.busy = false ∧ s.events.head? = some (s.cmdWrite 0x00000001#32)) ∨
    (s.engine = .full ∧ t.engine = .tail ∧ s.busy = false ∧ t.busy = true) ∨
    (s.engine = .tail ∧ t.engine = .finlen ∧ t.busy = true) ∨
    (s.engine = .finlen ∧ t.engine = .finsum ∧ t.busy = true) ∨
    (s.engine = .finsum ∧ t.engine = .done ∧ t.busy = false) ∨
    (s.engine ∈ [EngineState.idle, .full, .done, .finsum] ∧ t.engine = .error ∧ t.busy = false ∧ t.code ≠ .none) ∨
    (t.engine = .idle ∧ s.events.head? = some .reset)

/-- R29: BUSY is set only by the host step that issues BLOCK or TAIL in FULL, and cleared only by the last sequencer step
of the command (the BLOCK step, the FINSUM step) or by Reset. -/
def Obligations.BusyWriters : Prop :=
  ∀ s t : State, step s = .next t →
    (s.busy = false → t.busy = true → s.engine = .full ∧
      ∃ v, s.events.head? = some (s.cmdWrite v) ∧
        (decode v = .instr .block ∨ ∃ r, decode v = .instr (.tail r))) ∧
    (s.busy = true → t.busy = false → s.events.head? = some .reset ∨
      ((s.events = [] ∨ s.events.head? = some .sequencer) ∧ (s.engine = .full ∨ s.engine = .finsum)))

/-- R31: PEND is set only by a host write to CMD or to a word of M with BUSY = 1; it is cleared only by the last sequencer
step of the command, which then enters ERROR with CODE = 4, or by Reset. -/
def Obligations.PendWriters : Prop :=
  ∀ s t : State, step s = .next t →
    (s.pend = false → t.pend = true → s.busy = true ∧
      ∃ off v, (off = 0x000 ∨ (0x040 ≤ off ∧ off ≤ 0x07C)) ∧
        s.events.head? = some (.write (s.config.coreBase + off) 4 v)) ∧
    (s.pend = true → t.pend = false → s.events.head? = some .reset ∨
      ((s.engine = .full ∨ s.engine = .finsum) ∧ s.busy = true ∧ t.busy = false ∧ t.engine = .error ∧
        t.code = .busyWrite))

/-- R240, R241: the Reset event takes any state, a busy one included, to the reset values, and keeps TABLES and the
parameters; the host's further accesses are still to come, which is the model's choice (assumption 12, DESIGN
CHOICE). -/
def Obligations.ResetEventSetsEveryRegister : Prop :=
  ∀ (s : State) (rest : List Event), s.events = .reset :: rest →
    step s = .next
      { h := blk 0, n := blk 0, sigma := blk 0, m := blk 0, engine := .idle, busy := false, code := .none, pend := false,
        tlen := 0#7, config := s.config, events := rest, reads := s.reads }

/-- R240: after reset every offset of the window reads 0x00000000, STATUS included. -/
def Obligations.WindowReadsZeroAfterReset : Prop :=
  ∀ (c : Config) (off : Nat), (State.resetWith c).readWindow off = 0#32

/-! ### The datapath -/

/-- R100: X byte by byte, and its corner cases. -/
def Obligations.XorIsBytewise : Prop :=
  ∀ a b c : Block,
    (∀ i < 64, Block.byte (blockXor a b) i = Block.byte a i ^^^ Block.byte b i) ∧
    blockXor a a = blk 0 ∧ blockXor a (blk 0) = a ∧ blockXor a b = blockXor b a ∧
    blockXor (blockXor a b) c = blockXor a (blockXor b c)

/-- R101: ADD's corner cases; and ADD is the ripple-carry addition of the bytes from the last index to the first, its final carry discarded, which
is addition of the integers modulo 2^512. `carry i` is the carry out of byte `i`, `carry 64` the first carry in. -/
def Obligations.AddRipplesBytes : Prop :=
  ∀ a b c : Block,
    blockAdd (blk (2 ^ 512 - 1)) (blk 1) = blk 0 ∧ blockAdd a (blk 0) = a ∧ blockAdd a b = blockAdd b a ∧
    blockAdd (blockAdd a b) c = blockAdd a (blockAdd b c) ∧
    (blockAdd a b).toNat = (a.toNat + b.toNat) % 2 ^ 512 ∧
    ∃ carry : Nat → Nat, carry 64 = 0 ∧
      ∀ i < 64,
        (Block.byte (blockAdd a b) i).toNat =
          ((Block.byte a i).toNat + (Block.byte b i).toNat + carry (i + 1)) % 256 ∧
        carry i = ((Block.byte a i).toNat + (Block.byte b i).toNat + carry (i + 1)) / 256

/-- R102, R7: byte `i` of blk(v), and its integer value. -/
def Obligations.BlkIsBigEndian : Prop :=
  ∀ v : Nat, v < 2 ^ 512 →
    (blk v).toNat = v ∧ ∀ i < 64, (Block.byte (blk v) i).toNat = v / 2 ^ (8 * (63 - i)) % 256

/-- R103: the bytes of PAD(t): zeros, the marker 0x01, then the tail right-justified. -/
def Obligations.PadLayout : Prop :=
  ∀ t : List Byte, t.length ≤ 63 →
    (∀ i < 63 - t.length, Block.byte (pad t) i = 0x00#8) ∧
    Block.byte (pad t) (63 - t.length) = 0x01#8 ∧
    (∀ k (h : k < t.length), Block.byte (pad t) (64 - t.length + k) = t[k])

/-- R103: the marker makes PAD injective over all tails of 0..63 bytes. -/
def Obligations.PadIsInjective : Prop :=
  ∀ t u : List Byte, t.length ≤ 63 → u.length ≤ 63 → pad t = pad u → t = u

/-- R166: the tail block of TAIL r depends on `M[64-r .. 63]` alone: zeros, the marker, and those bytes. -/
def Obligations.TailBlockIgnoresOtherBytes : Prop :=
  ∀ (m m' : Block) (r : Nat), r ≤ 63 →
    ((∀ i, 64 - r ≤ i → i < 64 → Block.byte m i = Block.byte m' i) → tailBlock m r = tailBlock m' r) ∧
    (∀ i < 63 - r, Block.byte (tailBlock m r) i = 0x00#8) ∧
    Block.byte (tailBlock m r) (63 - r) = 0x01#8 ∧
    (∀ i, 64 - r ≤ i → i < 64 → Block.byte (tailBlock m r) i = Block.byte m i)

/-- R9, R120, R121: SBOX and PERM are bijections, so S and P are bijections of the Blocks, and P keeps the multiset of byte
values: its 64 bytes are a rearrangement of the operand's. -/
def Obligations.SubstitutionAndPermutationAreBijective : Prop :=
  ∀ t : Tables, Function.Bijective (substitute t) ∧ Function.Bijective (permute t) ∧
    ∀ a : Block, ((List.range 64).map (Block.byte (permute t a))).Perm ((List.range 64).map (Block.byte a))

/-- R122: L(blk(0)) = blk(0), and L is linear over GF(2), for every table LIN. -/
def Obligations.DiffusionIsLinear : Prop :=
  ∀ (t : Tables) (a b : Block),
    diffuse t (blk 0) = blk 0 ∧
    diffuse t (blockXor a b) = blockXor (diffuse t a) (diffuse t b)

/-- R120 to R123: LPS segment by segment. Segment `s` of LPS(a) is the XOR of the rows LIN[j] over the set bits `j`, from
the top, of the segment whose byte `u` is SBOX[a[PERM[8s+u]]]. -/
def Obligations.LpsBySegments : Prop :=
  ∀ (t : Tables) (a : Block) (s : Nat), s < 8 →
    ∃ w : Segment,
      (∀ u < 8, w.extractLsb' (8 * (7 - u)) 8 = sboxAt t (Block.byte a (permAt t (8 * s + u)))) ∧
      Block.segment (lps t a) s =
        (List.range 64).foldl (fun acc j => if w.getLsbD (63 - j) then acc ^^^ linAt t j else acc) 0#64

/-- R140 to R143: the schedule has 13 keys, K0 first and K_{i+1} = LPS(K_i XOR C_i); the running key of the inline
cipher after `i` rounds is K_i; and the inline cipher is the cipher over the precomputed schedule. -/
def Obligations.InlineScheduleAgrees : Prop :=
  ∀ (t : Tables) (k m : Block),
    (schedule t k).length = 13 ∧ (schedule t k)[0]? = some k ∧
    (∀ i < 12, ∃ ki, (schedule t k)[i]? = some ki ∧
      (schedule t k)[i + 1]? = some (lps t (blockXor ki (rcAt t i)))) ∧
    (∀ i ≤ 12, (schedule t k)[i]? = some (cipherRounds t k m i).key) ∧
    cipher t k m =
      (List.range 12).foldl (fun st i => blockXor (lps t st) ((schedule t k).getD (i + 1) 0#512)) (blockXor m k)

/-- R145: G over the precomputed round keys of the key LPS(h XOR N), with both feedbacks of the old `h` and of `m`. -/
def Obligations.CompressionOverTheSchedule : Prop :=
  ∀ (t : Tables) (n h m : Block),
    compress t n h m =
      (List.range 12).foldl
          (fun st i => lps t st ^^^ (schedule t (lps t (h ^^^ n))).getD (i + 1) 0#512) (m ^^^ lps t (h ^^^ n))
        ^^^ h ^^^ m

/-! ### The whole hash -/

/-- R174: after the tail of HASH(msg), the counter is the message length in bits and the checksum is the sum of the full
blocks and of the padded prefix, modulo 2^512. Block `j` is `msg[n-64j .. n-64j+63]`. -/
def Obligations.CounterAndChecksum : Prop :=
  ∀ (t : Tables) (msg : List Byte),
    (afterTail t msg).n.toNat = 8 * msg.length % 2 ^ 512 ∧
    (afterTail t msg).sigma.toNat =
      (((List.range (msg.length / 64)).map fun j =>
          (Block.ofByteList ((msg.drop (msg.length - 64 * (j + 1))).take 64)).toNat).sum
        + (pad (msg.take (msg.length % 64))).toNat) % 2 ^ 512

/-- R173 with R250: from any state with BUSY = 0 (and PEND = 0, which R36 gives), the host's program HASHMSG msg, its WAITs
loops on the STATUS word they read, comes to its end under every fair interleaving of the host's and the sequencer's turns
(assumption 15, DESIGN CHOICE, is the form of the schedule), and then its STATUS read is 0x00000405 and its sixteen reads of H
are HASH(msg). -/
def Obligations.HashMsgComputesHash : Prop :=
  ∀ (s : State) (msg : List Byte) (sched : Nat → Agent), s.busy = false → s.pend = false → FairSchedule sched →
    ∃ (k : Nat) (t : State) (ws more : List Word),
      Hosted.play ⟨hashMsg s.config.coreBase msg, s⟩ (firstTurns sched k) = .next ⟨[], t⟩ ∧
      t.reads = ws ++ 0x00000405#32 :: more ∧ ws.length = 16 ∧
      readBlock ws = streebog s.config.tables msg ∧ t.engine = .done ∧ t.h = streebog s.config.tables msg
end

