-- ==== Sys2Proof/Laws/Blocks.lean ====
section
/-! SUPPORT. The laws of the byte, word and segment views of a Block: what a built Block reads as, and that the views
determine the Block. -/

namespace Sys2Proof.Machine

/-! ### Bits and bytes -/

theorem Block.byte_getLsbD (b : Block) (i k : Nat) (hk : k < 8) :
    (Block.byte b i).getLsbD k = b.getLsbD (8 * (63 - i) + k) := by
  simp [Block.byte, hk]

/-- Bit `p` of a Block is a bit of its byte `63 - p / 8`. -/
theorem Block.getLsbD_eq_byte (b : Block) (p : Nat) (hp : p < 512) :
    b.getLsbD p = (Block.byte b (63 - p / 8)).getLsbD (p % 8) := by
  rw [Block.byte_getLsbD _ _ _ (Nat.mod_lt _ (by omega))]
  congr 1; omega

/-- Two Blocks with the same 64 bytes are equal. -/
theorem Block.ext_bytes {a b : Block} (h : ∀ i < 64, Block.byte a i = Block.byte b i) : a = b := by
  apply BitVec.eq_of_getLsbD_eq
  intro p hp
  rw [Block.getLsbD_eq_byte a p hp, Block.getLsbD_eq_byte b p hp, h _ (by omega)]

theorem Block.getLsbD_ofBytesUpTo (f : Nat → Byte) (k p : Nat) (hk : k ≤ 64) :
    (Block.ofBytesUpTo f k).getLsbD p = (decide (p < 8 * k) && (f (k - 1 - p / 8)).getLsbD (p % 8)) := by
  induction k generalizing p with
  | zero => simp [Block.ofBytesUpTo]
  | succ k ih =>
    simp only [Block.ofBytesUpTo, BitVec.getLsbD_or, BitVec.getLsbD_shiftLeft, BitVec.getLsbD_setWidth]
    rw [ih _ (by omega)]
    by_cases h8 : p < 8
    · have h0 : p / 8 = 0 := by omega
      have hm : p % 8 = p := by omega
      have h1 : p < 8 * (k + 1) := by omega
      have h2 : p < 512 := by omega
      simp [h8, h0, hm, h1, h2]
    · have hf : (f k).getLsbD p = false := BitVec.getLsbD_of_ge _ _ (by omega)
      have hm : (p - 8) % 8 = p % 8 := by omega
      have hd : k - 1 - (p - 8) / 8 = k + 1 - 1 - p / 8 := by omega
      by_cases hp : p < 8 * (k + 1)
      · have h1 : p - 8 < 8 * k := by omega
        have h2 : p < 512 := by omega
        simp [h8, hf, hm, hd, h1, hp, h2]
      · have h1 : ¬ p - 8 < 8 * k := by omega
        simp [hf, h1, hp]

/-- A Block built from bytes has those bytes. -/
theorem Block.byte_ofBytes (f : Nat → Byte) (i : Nat) (hi : i < 64) :
    Block.byte (Block.ofBytes f) i = f i := by
  apply BitVec.eq_of_getLsbD_eq
  intro k hk
  rw [Block.byte_getLsbD _ _ _ hk, Block.ofBytes, Block.getLsbD_ofBytesUpTo _ _ _ (Nat.le_refl _)]
  have h1 : 8 * (63 - i) + k < 8 * 64 := by omega
  have h2 : 64 - 1 - (8 * (63 - i) + k) / 8 = i := by omega
  have h3 : (8 * (63 - i) + k) % 8 = k := by omega
  simp [h1, h2, h3]

/-- A Block is built from its own bytes. -/
theorem Block.ofBytes_byte (b : Block) : Block.ofBytes (Block.byte b) = b :=
  Block.ext_bytes fun i hi => Block.byte_ofBytes _ i hi

/-- Only the first 64 values of `f` matter. -/
theorem Block.ofBytes_congr {f g : Nat → Byte} (h : ∀ i < 64, f i = g i) : Block.ofBytes f = Block.ofBytes g :=
  Block.ext_bytes fun i hi => by rw [Block.byte_ofBytes _ _ hi, Block.byte_ofBytes _ _ hi, h i hi]

theorem Block.byte_ofByteList (bs : List Byte) (i : Nat) (hi : i < 64) :
    Block.byte (Block.ofByteList bs) i = bs.getD i 0x00#8 := Block.byte_ofBytes _ _ hi

/-- The byte of an integer's Block (R102). -/
theorem Block.byte_toNat (b : Block) (i : Nat) : (Block.byte b i).toNat = b.toNat >>> (8 * (63 - i)) % 256 := by
  simp [Block.byte, BitVec.extractLsb'_toNat]

/-! ### Words -/

theorem Block.word_getLsbD (b : Block) (j k : Nat) (hj : j < 16) (hk : k < 32) :
    (Block.word b j).getLsbD k = b.getLsbD (32 * (15 - j) + k) := by
  have e : ∀ (u c p : Nat), c < 8 → 8 * (63 - u) + c = p → (Block.byte b u).getLsbD c = b.getLsbD p :=
    fun u c p hc hp => hp ▸ Block.byte_getLsbD b u c hc
  simp only [Block.word, BitVec.getLsbD_append]
  by_cases h1 : k < 8
  · rw [if_pos h1]
    exact e _ _ _ h1 (by omega)
  · rw [if_neg h1]
    by_cases h2 : k - 8 < 8
    · rw [if_pos h2]
      exact e _ _ _ h2 (by omega)
    · rw [if_neg h2]
      by_cases h3 : k - 8 - 8 < 8
      · rw [if_pos h3]
        exact e _ _ _ h3 (by omega)
      · rw [if_neg h3]
        exact e _ _ _ (by omega) (by omega)

/-- Byte `4j + u` of a Block is byte `u` of its word `j`, counted from the top (R52). -/
theorem Block.byte_eq_word (b : Block) (i : Nat) (hi : i < 64) :
    Block.byte b i = (Block.word b (i / 4)).extractLsb' (8 * (3 - i % 4)) 8 := by
  apply BitVec.eq_of_getLsbD_eq
  intro k hk
  rw [Block.byte_getLsbD _ _ _ hk, BitVec.getLsbD_extractLsb']
  simp only [hk, decide_true, Bool.true_and]
  rw [Block.word_getLsbD _ _ _ (by omega) (by omega)]
  congr 1; omega

/-- Two Blocks with the same 16 words are equal. -/
theorem Block.ext_words {a b : Block} (h : ∀ j < 16, Block.word a j = Block.word b j) : a = b :=
  Block.ext_bytes fun i hi => by
    rw [Block.byte_eq_word a i hi, Block.byte_eq_word b i hi, h _ (by omega)]

/-- What a word write leaves in each byte (R53). -/
theorem Block.byte_setWord (b : Block) (j : Nat) (v : Word) (k : Nat) (hk : k < 64) :
    Block.byte (Block.setWord b j v) k = if k / 4 = j then v.extractLsb' (8 * (3 - k % 4)) 8 else Block.byte b k :=
  Block.byte_ofBytes _ _ hk

/-- Read after write: word `j` reads back, every other word is as before (R52, R53). -/
theorem Block.word_setWord (b : Block) (j : Nat) (v : Word) (i : Nat) (hi : i < 16) :
    Block.word (Block.setWord b j v) i = if i = j then v else Block.word b i := by
  have q : ∀ u < 4, Block.byte (Block.setWord b j v) (4 * i + u) =
      if i = j then v.extractLsb' (8 * (3 - u)) 8 else Block.byte b (4 * i + u) := by
    intro u hu
    rw [Block.byte_setWord _ _ _ _ (by omega)]
    have h1 : (4 * i + u) / 4 = i := by omega
    have h2 : (4 * i + u) % 4 = u := by omega
    rw [h1, h2]
  unfold Block.word
  have q0 := q 0 (by omega)
  rw [Nat.add_zero] at q0
  rw [q0, q 1 (by omega), q 2 (by omega), q 3 (by omega)]
  split
  · apply BitVec.eq_of_getLsbD_eq
    intro k hk
    simp only [BitVec.getLsbD_append, BitVec.getLsbD_extractLsb']
    by_cases h1 : k < 8
    · simp [h1]
    · by_cases h2 : k < 16
      · have a1 : k - 8 < 8 := by omega
        have a2 : 8 + (k - 8) = k := by omega
        simp [h1, a1, a2]
      · by_cases h3 : k < 24
        · have a1 : ¬ k - 8 < 8 := by omega
          have a2 : k - 8 - 8 < 8 := by omega
          have a3 : 16 + (k - 8 - 8) = k := by omega
          simp [h1, a1, a2, a3]
        · have a1 : ¬ k - 8 < 8 := by omega
          have a2 : ¬ k - 8 - 8 < 8 := by omega
          have a3 : 24 + (k - 8 - 8 - 8) = k := by omega
          have a4 : k - 8 - 8 - 8 < 8 := by omega
          simp [h1, a1, a2, a3, a4]
  · rfl

/-! ### Segments -/

theorem Block.segment_getLsbD (b : Block) (s k : Nat) (hk : k < 64) :
    (Block.segment b s).getLsbD k = b.getLsbD (64 * (7 - s) + k) := by
  simp [Block.segment, hk]

/-- Byte `8s + u` of a Block is byte `u` of its segment `s`, counted from the top (R122). -/
theorem Block.byte_eq_segment (b : Block) (i : Nat) (hi : i < 64) :
    Block.byte b i = (Block.segment b (i / 8)).extractLsb' (8 * (7 - i % 8)) 8 := by
  apply BitVec.eq_of_getLsbD_eq
  intro k hk
  rw [Block.byte_getLsbD _ _ _ hk, BitVec.getLsbD_extractLsb']
  simp only [hk, decide_true, Bool.true_and]
  rw [Block.segment_getLsbD _ _ _ (by omega)]
  congr 1; omega

/-- Two Blocks with the same 8 segments are equal. -/
theorem Block.ext_segments {a b : Block} (h : ∀ s < 8, Block.segment a s = Block.segment b s) : a = b :=
  Block.ext_bytes fun i hi => by
    rw [Block.byte_eq_segment a i hi, Block.byte_eq_segment b i hi, h _ (by omega)]

theorem Block.getLsbD_ofSegmentsUpTo (f : Nat → Segment) (k p : Nat) (hk : k ≤ 8) :
    (Block.ofSegmentsUpTo f k).getLsbD p = (decide (p < 64 * k) && (f (k - 1 - p / 64)).getLsbD (p % 64)) := by
  induction k generalizing p with
  | zero => simp [Block.ofSegmentsUpTo]
  | succ k ih =>
    simp only [Block.ofSegmentsUpTo, BitVec.getLsbD_or, BitVec.getLsbD_shiftLeft, BitVec.getLsbD_setWidth]
    rw [ih _ (by omega)]
    by_cases h8 : p < 64
    · have h0 : p / 64 = 0 := by omega
      have hm : p % 64 = p := by omega
      have h1 : p < 64 * (k + 1) := by omega
      have h2 : p < 512 := by omega
      simp [h8, h0, hm, h1, h2]
    · have hf : (f k).getLsbD p = false := BitVec.getLsbD_of_ge _ _ (by omega)
      have hm : (p - 64) % 64 = p % 64 := by omega
      have hd : k - 1 - (p - 64) / 64 = k + 1 - 1 - p / 64 := by omega
      by_cases hp : p < 64 * (k + 1)
      · have h1 : p - 64 < 64 * k := by omega
        have h2 : p < 512 := by omega
        simp [h8, hf, hm, hd, h1, hp, h2]
      · have h1 : ¬ p - 64 < 64 * k := by omega
        simp [hf, h1, hp]

/-- A Block built from segments has those segments. -/
theorem Block.segment_ofSegments (f : Nat → Segment) (s : Nat) (hs : s < 8) :
    Block.segment (Block.ofSegments f) s = f s := by
  apply BitVec.eq_of_getLsbD_eq
  intro k hk
  rw [Block.segment_getLsbD _ _ _ hk, Block.ofSegments, Block.getLsbD_ofSegmentsUpTo _ _ _ (Nat.le_refl _)]
  have h1 : 64 * (7 - s) + k < 64 * 8 := by omega
  have h2 : 8 - 1 - (64 * (7 - s) + k) / 64 = s := by omega
  have h3 : (64 * (7 - s) + k) % 64 = k := by omega
  simp [h1, h2, h3]

/-! ### The layers, byte by byte and segment by segment -/

/-- Byte `i` of S(a) (R120). -/
theorem byte_substitute (t : Tables) (a : Block) (i : Nat) (hi : i < 64) :
    Block.byte (substitute t a) i = sboxAt t (Block.byte a i) := Block.byte_ofBytes _ _ hi

/-- Byte `i` of P(a) (R121). -/
theorem byte_permute (t : Tables) (a : Block) (i : Nat) (hi : i < 64) :
    Block.byte (permute t a) i = Block.byte a (permAt t i) := Block.byte_ofBytes _ _ hi

theorem permAt_lt (t : Tables) (i : Nat) : permAt t i < 64 := by
  unfold permAt; split <;> omega

/-- Segment `s` of L(a) (R122). -/
theorem segment_diffuse (t : Tables) (a : Block) (s : Nat) (hs : s < 8) :
    Block.segment (diffuse t a) s = diffuseSegment t (Block.segment a s) := Block.segment_ofSegments _ _ hs

/-- SBOX is a bijection of the bytes (R9). -/
theorem sboxAt_bijective (t : Tables) : Function.Bijective (sboxAt t) := by
  refine Finite.injective_iff_bijective.mp fun x y h => BitVec.eq_of_toNat_eq ?_
  exact (List.Nodup.getElem_inj_iff t.sbox_nodup (hi := by simpa using x.isLt) (hj := by simpa using y.isLt)).mp
    (by simpa [sboxAt] using h)

/-- PERM is a bijection of the byte positions (R9). -/
theorem permAt_bijective (t : Tables) :
    Function.Bijective fun i : Fin 64 => (⟨permAt t i, permAt_lt t i⟩ : Fin 64) := by
  refine Finite.injective_iff_bijective.mp fun x y h => Fin.ext ?_
  exact (List.Nodup.getElem_inj_iff t.perm_nodup (hi := by simp) (hj := by simp)).mp
    (by simpa [permAt, Fin.val_inj] using h)

/-- The segment accumulator is linear over GF(2) (R122). -/
theorem segmentAcc_xor (t : Tables) (v w : Segment) (k : Nat) (hk : k ≤ 64) :
    segmentAcc t (v ^^^ w) k = segmentAcc t v k ^^^ segmentAcc t w k := by
  induction k with
  | zero => simp [segmentAcc]
  | succ k ih =>
    simp only [segmentAcc, BitVec.getLsbD_xor, ih (by omega)]
    have swap : ∀ x y z : Segment, x ^^^ y ^^^ z = x ^^^ z ^^^ y := fun x y z => by
      rw [BitVec.xor_assoc, BitVec.xor_comm y z, ← BitVec.xor_assoc]
    cases v.getLsbD (63 - k) <;> cases w.getLsbD (63 - k) <;> simp only [Bool.xor_false,
      Bool.xor_true, Bool.not_true, Bool.not_false, Bool.false_eq_true, if_true, if_false]
    · rw [BitVec.xor_assoc]
    · exact swap _ _ _
    · have z : ∀ x y : Segment, x ^^^ y ^^^ y = x := fun x y => by
        rw [BitVec.xor_assoc, BitVec.xor_self, BitVec.xor_zero]
      rw [swap _ (linAt t k) _, ← BitVec.xor_assoc, z]

/-! ### The accumulators -/

@[simp] theorem absorb_h (t : Tables) (c : HashState) (m : Block) (bits : Nat) :
    (absorb t c m bits).h = compress t c.n c.h m := rfl
@[simp] theorem absorb_n (t : Tables) (c : HashState) (m : Block) (bits : Nat) :
    (absorb t c m bits).n = blockAdd c.n (blk bits) := rfl
@[simp] theorem absorb_sigma (t : Tables) (c : HashState) (m : Block) (bits : Nat) :
    (absorb t c m bits).sigma = blockAdd c.sigma m := rfl
@[simp] theorem finalize_h (t : Tables) (c : HashState) (x : Block) :
    (finalize t c x).h = compress t (blk 0) c.h x := rfl
@[simp] theorem finalize_n (t : Tables) (c : HashState) (x : Block) : (finalize t c x).n = c.n := rfl
@[simp] theorem finalize_sigma (t : Tables) (c : HashState) (x : Block) : (finalize t c x).sigma = c.sigma := rfl

/-- ADD on integers (R101). -/
theorem blockAdd_toNat (a b : Block) : (blockAdd a b).toNat = (a.toNat + b.toNat) % 2 ^ 512 := BitVec.toNat_add a b

/-! ### PAD and the tail operand -/

/-- Each byte of PAD(t): zeros, the marker, then the tail (R103). -/
theorem byte_pad (t : List Byte) (i : Nat) (hi : i < 64) :
    Block.byte (pad t) i = if i < 63 - t.length then 0x00#8 else if i = 63 - t.length then 0x01#8
      else t.getD (i - (64 - t.length)) 0x00#8 := Block.byte_ofBytes _ _ hi

@[simp] theorem tailBytes_length (m : Block) (r : Nat) : (tailBytes m r).length = r := by simp [tailBytes]

/-- Each byte of the tail block of TAIL r (R166). -/
theorem byte_tailBlock (m : Block) (r i : Nat) (hi : i < 64) :
    Block.byte (tailBlock m r) i =
      if i < 63 - r then 0x00#8 else if i = 63 - r then 0x01#8
      else if 64 - r ≤ i ∧ i - (64 - r) < r then Block.byte m i else 0x00#8 := by
  unfold tailBlock
  rw [byte_pad _ _ hi, tailBytes_length]
  split
  · rfl
  · split
    · rfl
    · unfold tailBytes
      split
      · next h => rw [List.getD_eq_getElem _ _ (by simp; omega)]; simp; congr 1; omega
      · next h => rw [List.getD_eq_default _ _ (by simp; omega)]

end Sys2Proof.Machine
end

