-- ==== Sys2Proof/Laws/Decode.lean ====
section
/-! SUPPORT. What a decoded command word looks like. -/

namespace Sys2Proof

/-- The decoder gives TAIL only with a legal LEN (R82). -/
theorem decode_tail_le {v : Word} {r : Len} (h : decode v = .instr (.tail r)) : r.toNat ≤ maxTailLen := by
  unfold decode at h
  split at h
  · cases h
  · split at h
    · cases h
    · split at h
      · split at h
        · cases h; assumption
        · cases h
      · cases h

/-- A 32-bit word is its five command fields joined (R80). -/
theorem word_fields (v : Word) :
    v = v.extractLsb' 15 17 ++ lenField v ++ v.extractLsb' 4 4 ++ opField v := by
  apply BitVec.eq_of_getLsbD_eq
  intro k hk
  simp only [opField, lenField, BitVec.getLsbD_append, BitVec.getLsbD_extractLsb']
  by_cases h1 : k < 4
  · simp [h1]
  · by_cases h2 : k < 8
    · have a : k - 4 < 4 := by omega
      have b : 4 + (k - 4) = k := by omega
      simp [h1, a, b]
    · by_cases h3 : k < 15
      · have a : ¬ k - 4 < 4 := by omega
        have b : k - 4 - 4 < 7 := by omega
        have c : 8 + (k - 4 - 4) = k := by omega
        simp [h1, a, b, c]
      · have a : ¬ k - 4 < 4 := by omega
        have b : ¬ k - 4 - 4 < 7 := by omega
        have c : 15 + (k - 4 - 4 - 7) = k := by omega
        have d : k - 4 - 4 - 7 < 17 := by omega
        simp [h1, a, b, c, d]

/-- A 32-bit word is its opcode and the 28 bits above it (R82). -/
theorem word_op_rest (v : Word) : v = v.extractLsb' 4 28 ++ opField v := by
  apply BitVec.eq_of_getLsbD_eq
  intro k hk
  simp only [opField, BitVec.getLsbD_append, BitVec.getLsbD_extractLsb']
  by_cases h1 : k < 4
  · simp [h1]
  · have b : 4 + (k - 4) = k := by omega
    have d : k - 4 < 28 := by omega
    simp [h1, b, d]

end Sys2Proof
end

