-- ==== Sys2Proof/Laws/State.lean ====
section
/-! SUPPORT. The small lemmas of State: for each update of Machine/Ops.lean and each field, what the field holds after it;
so no later proof unfolds a record update. -/

namespace Sys2Proof.Machine

variable (s : State)

@[simp] theorem State.enterError_h (c : ErrorCode) : (s.enterError c).h = s.h := rfl
@[simp] theorem State.enterError_n (c : ErrorCode) : (s.enterError c).n = s.n := rfl
@[simp] theorem State.enterError_sigma (c : ErrorCode) : (s.enterError c).sigma = s.sigma := rfl
@[simp] theorem State.enterError_m (c : ErrorCode) : (s.enterError c).m = s.m := rfl
@[simp] theorem State.enterError_engine (c : ErrorCode) : (s.enterError c).engine = EngineState.error := rfl
@[simp] theorem State.enterError_busy (c : ErrorCode) : (s.enterError c).busy = s.busy := rfl
@[simp] theorem State.enterError_code (c : ErrorCode) : (s.enterError c).code = c := rfl
@[simp] theorem State.enterError_pend (c : ErrorCode) : (s.enterError c).pend = s.pend := rfl
@[simp] theorem State.enterError_tlen (c : ErrorCode) : (s.enterError c).tlen = s.tlen := rfl
@[simp] theorem State.enterError_config (c : ErrorCode) : (s.enterError c).config = s.config := rfl
@[simp] theorem State.enterError_events (c : ErrorCode) : (s.enterError c).events = s.events := rfl
@[simp] theorem State.enterError_reads (c : ErrorCode) : (s.enterError c).reads = s.reads := rfl

@[simp] theorem State.discardWrite_h : s.discardWrite.h = s.h := rfl
@[simp] theorem State.discardWrite_n : s.discardWrite.n = s.n := rfl
@[simp] theorem State.discardWrite_sigma : s.discardWrite.sigma = s.sigma := rfl
@[simp] theorem State.discardWrite_m : s.discardWrite.m = s.m := rfl
@[simp] theorem State.discardWrite_engine : s.discardWrite.engine = s.engine := rfl
@[simp] theorem State.discardWrite_busy : s.discardWrite.busy = s.busy := rfl
@[simp] theorem State.discardWrite_code : s.discardWrite.code = s.code := rfl
@[simp] theorem State.discardWrite_pend : s.discardWrite.pend = true := rfl
@[simp] theorem State.discardWrite_tlen : s.discardWrite.tlen = s.tlen := rfl
@[simp] theorem State.discardWrite_config : s.discardWrite.config = s.config := rfl
@[simp] theorem State.discardWrite_events : s.discardWrite.events = s.events := rfl
@[simp] theorem State.discardWrite_reads : s.discardWrite.reads = s.reads := rfl

@[simp] theorem State.clearPend_h : s.clearPend.h = s.h := rfl
@[simp] theorem State.clearPend_n : s.clearPend.n = s.n := rfl
@[simp] theorem State.clearPend_sigma : s.clearPend.sigma = s.sigma := rfl
@[simp] theorem State.clearPend_m : s.clearPend.m = s.m := rfl
@[simp] theorem State.clearPend_engine : s.clearPend.engine = s.engine := rfl
@[simp] theorem State.clearPend_busy : s.clearPend.busy = s.busy := rfl
@[simp] theorem State.clearPend_code : s.clearPend.code = s.code := rfl
@[simp] theorem State.clearPend_pend : s.clearPend.pend = false := rfl
@[simp] theorem State.clearPend_tlen : s.clearPend.tlen = s.tlen := rfl
@[simp] theorem State.clearPend_config : s.clearPend.config = s.config := rfl
@[simp] theorem State.clearPend_events : s.clearPend.events = s.events := rfl
@[simp] theorem State.clearPend_reads : s.clearPend.reads = s.reads := rfl

@[simp] theorem State.startHash_h : s.startHash.h = blk 0 := rfl
@[simp] theorem State.startHash_n : s.startHash.n = blk 0 := rfl
@[simp] theorem State.startHash_sigma : s.startHash.sigma = blk 0 := rfl
@[simp] theorem State.startHash_m : s.startHash.m = s.m := rfl
@[simp] theorem State.startHash_engine : s.startHash.engine = EngineState.full := rfl
@[simp] theorem State.startHash_busy : s.startHash.busy = s.busy := rfl
@[simp] theorem State.startHash_code : s.startHash.code = ErrorCode.none := rfl
@[simp] theorem State.startHash_pend : s.startHash.pend = s.pend := rfl
@[simp] theorem State.startHash_tlen : s.startHash.tlen = s.tlen := rfl
@[simp] theorem State.startHash_config : s.startHash.config = s.config := rfl
@[simp] theorem State.startHash_events : s.startHash.events = s.events := rfl
@[simp] theorem State.startHash_reads : s.startHash.reads = s.reads := rfl

@[simp] theorem State.beginBlock_h : s.beginBlock.h = s.h := rfl
@[simp] theorem State.beginBlock_n : s.beginBlock.n = s.n := rfl
@[simp] theorem State.beginBlock_sigma : s.beginBlock.sigma = s.sigma := rfl
@[simp] theorem State.beginBlock_m : s.beginBlock.m = s.m := rfl
@[simp] theorem State.beginBlock_engine : s.beginBlock.engine = s.engine := rfl
@[simp] theorem State.beginBlock_busy : s.beginBlock.busy = true := rfl
@[simp] theorem State.beginBlock_code : s.beginBlock.code = s.code := rfl
@[simp] theorem State.beginBlock_pend : s.beginBlock.pend = s.pend := rfl
@[simp] theorem State.beginBlock_tlen : s.beginBlock.tlen = s.tlen := rfl
@[simp] theorem State.beginBlock_config : s.beginBlock.config = s.config := rfl
@[simp] theorem State.beginBlock_events : s.beginBlock.events = s.events := rfl
@[simp] theorem State.beginBlock_reads : s.beginBlock.reads = s.reads := rfl

@[simp] theorem State.beginTail_h (r : Len) : (s.beginTail r).h = s.h := rfl
@[simp] theorem State.beginTail_n (r : Len) : (s.beginTail r).n = s.n := rfl
@[simp] theorem State.beginTail_sigma (r : Len) : (s.beginTail r).sigma = s.sigma := rfl
@[simp] theorem State.beginTail_m (r : Len) : (s.beginTail r).m = s.m := rfl
@[simp] theorem State.beginTail_engine (r : Len) : (s.beginTail r).engine = EngineState.tail := rfl
@[simp] theorem State.beginTail_busy (r : Len) : (s.beginTail r).busy = true := rfl
@[simp] theorem State.beginTail_code (r : Len) : (s.beginTail r).code = s.code := rfl
@[simp] theorem State.beginTail_pend (r : Len) : (s.beginTail r).pend = s.pend := rfl
@[simp] theorem State.beginTail_tlen (r : Len) : (s.beginTail r).tlen = r := rfl
@[simp] theorem State.beginTail_config (r : Len) : (s.beginTail r).config = s.config := rfl
@[simp] theorem State.beginTail_events (r : Len) : (s.beginTail r).events = s.events := rfl
@[simp] theorem State.beginTail_reads (r : Len) : (s.beginTail r).reads = s.reads := rfl

@[simp] theorem State.commit_h (c : HashState) : (s.commit c).h = c.h := rfl
@[simp] theorem State.commit_n (c : HashState) : (s.commit c).n = c.n := rfl
@[simp] theorem State.commit_sigma (c : HashState) : (s.commit c).sigma = c.sigma := rfl
@[simp] theorem State.commit_m (c : HashState) : (s.commit c).m = s.m := rfl
@[simp] theorem State.commit_engine (c : HashState) : (s.commit c).engine = s.engine := rfl
@[simp] theorem State.commit_busy (c : HashState) : (s.commit c).busy = s.busy := rfl
@[simp] theorem State.commit_code (c : HashState) : (s.commit c).code = s.code := rfl
@[simp] theorem State.commit_pend (c : HashState) : (s.commit c).pend = s.pend := rfl
@[simp] theorem State.commit_tlen (c : HashState) : (s.commit c).tlen = s.tlen := rfl
@[simp] theorem State.commit_config (c : HashState) : (s.commit c).config = s.config := rfl
@[simp] theorem State.commit_events (c : HashState) : (s.commit c).events = s.events := rfl
@[simp] theorem State.commit_reads (c : HashState) : (s.commit c).reads = s.reads := rfl

@[simp] theorem State.moveTo_h (e : EngineState) : (s.moveTo e).h = s.h := rfl
@[simp] theorem State.moveTo_n (e : EngineState) : (s.moveTo e).n = s.n := rfl
@[simp] theorem State.moveTo_sigma (e : EngineState) : (s.moveTo e).sigma = s.sigma := rfl
@[simp] theorem State.moveTo_m (e : EngineState) : (s.moveTo e).m = s.m := rfl
@[simp] theorem State.moveTo_engine (e : EngineState) : (s.moveTo e).engine = e := rfl
@[simp] theorem State.moveTo_busy (e : EngineState) : (s.moveTo e).busy = s.busy := rfl
@[simp] theorem State.moveTo_code (e : EngineState) : (s.moveTo e).code = s.code := rfl
@[simp] theorem State.moveTo_pend (e : EngineState) : (s.moveTo e).pend = s.pend := rfl
@[simp] theorem State.moveTo_tlen (e : EngineState) : (s.moveTo e).tlen = s.tlen := rfl
@[simp] theorem State.moveTo_config (e : EngineState) : (s.moveTo e).config = s.config := rfl
@[simp] theorem State.moveTo_events (e : EngineState) : (s.moveTo e).events = s.events := rfl
@[simp] theorem State.moveTo_reads (e : EngineState) : (s.moveTo e).reads = s.reads := rfl

@[simp] theorem State.clearBusy_h : s.clearBusy.h = s.h := rfl
@[simp] theorem State.clearBusy_n : s.clearBusy.n = s.n := rfl
@[simp] theorem State.clearBusy_sigma : s.clearBusy.sigma = s.sigma := rfl
@[simp] theorem State.clearBusy_m : s.clearBusy.m = s.m := rfl
@[simp] theorem State.clearBusy_engine : s.clearBusy.engine = s.engine := rfl
@[simp] theorem State.clearBusy_busy : s.clearBusy.busy = false := rfl
@[simp] theorem State.clearBusy_code : s.clearBusy.code = s.code := rfl
@[simp] theorem State.clearBusy_pend : s.clearBusy.pend = s.pend := rfl
@[simp] theorem State.clearBusy_tlen : s.clearBusy.tlen = s.tlen := rfl
@[simp] theorem State.clearBusy_config : s.clearBusy.config = s.config := rfl
@[simp] theorem State.clearBusy_events : s.clearBusy.events = s.events := rfl
@[simp] theorem State.clearBusy_reads : s.clearBusy.reads = s.reads := rfl

@[simp] theorem State.applyReset_h : s.applyReset.h = blk 0 := rfl
@[simp] theorem State.applyReset_n : s.applyReset.n = blk 0 := rfl
@[simp] theorem State.applyReset_sigma : s.applyReset.sigma = blk 0 := rfl
@[simp] theorem State.applyReset_m : s.applyReset.m = blk 0 := rfl
@[simp] theorem State.applyReset_engine : s.applyReset.engine = EngineState.idle := rfl
@[simp] theorem State.applyReset_busy : s.applyReset.busy = false := rfl
@[simp] theorem State.applyReset_code : s.applyReset.code = ErrorCode.none := rfl
@[simp] theorem State.applyReset_pend : s.applyReset.pend = false := rfl
@[simp] theorem State.applyReset_tlen : s.applyReset.tlen = 0#7 := rfl
@[simp] theorem State.applyReset_config : s.applyReset.config = s.config := rfl
@[simp] theorem State.applyReset_events : s.applyReset.events = s.events := rfl
@[simp] theorem State.applyReset_reads : s.applyReset.reads = s.reads := rfl

@[simp] theorem State.withEvents_h (evs : List Event) : (s.withEvents evs).h = s.h := rfl
@[simp] theorem State.withEvents_n (evs : List Event) : (s.withEvents evs).n = s.n := rfl
@[simp] theorem State.withEvents_sigma (evs : List Event) : (s.withEvents evs).sigma = s.sigma := rfl
@[simp] theorem State.withEvents_m (evs : List Event) : (s.withEvents evs).m = s.m := rfl
@[simp] theorem State.withEvents_engine (evs : List Event) : (s.withEvents evs).engine = s.engine := rfl
@[simp] theorem State.withEvents_busy (evs : List Event) : (s.withEvents evs).busy = s.busy := rfl
@[simp] theorem State.withEvents_code (evs : List Event) : (s.withEvents evs).code = s.code := rfl
@[simp] theorem State.withEvents_pend (evs : List Event) : (s.withEvents evs).pend = s.pend := rfl
@[simp] theorem State.withEvents_tlen (evs : List Event) : (s.withEvents evs).tlen = s.tlen := rfl
@[simp] theorem State.withEvents_config (evs : List Event) : (s.withEvents evs).config = s.config := rfl
@[simp] theorem State.withEvents_events (evs : List Event) : (s.withEvents evs).events = evs := rfl
@[simp] theorem State.withEvents_reads (evs : List Event) : (s.withEvents evs).reads = s.reads := rfl

@[simp] theorem State.logRead_h (v : Word) : (s.logRead v).h = s.h := rfl
@[simp] theorem State.logRead_n (v : Word) : (s.logRead v).n = s.n := rfl
@[simp] theorem State.logRead_sigma (v : Word) : (s.logRead v).sigma = s.sigma := rfl
@[simp] theorem State.logRead_m (v : Word) : (s.logRead v).m = s.m := rfl
@[simp] theorem State.logRead_engine (v : Word) : (s.logRead v).engine = s.engine := rfl
@[simp] theorem State.logRead_busy (v : Word) : (s.logRead v).busy = s.busy := rfl
@[simp] theorem State.logRead_code (v : Word) : (s.logRead v).code = s.code := rfl
@[simp] theorem State.logRead_pend (v : Word) : (s.logRead v).pend = s.pend := rfl
@[simp] theorem State.logRead_tlen (v : Word) : (s.logRead v).tlen = s.tlen := rfl
@[simp] theorem State.logRead_config (v : Word) : (s.logRead v).config = s.config := rfl
@[simp] theorem State.logRead_events (v : Word) : (s.logRead v).events = s.events := rfl
@[simp] theorem State.logRead_reads (v : Word) : (s.logRead v).reads = v :: s.reads := rfl

@[simp] theorem State.setM_h (b : Block) : (s.setM b).h = s.h := rfl
@[simp] theorem State.setM_n (b : Block) : (s.setM b).n = s.n := rfl
@[simp] theorem State.setM_sigma (b : Block) : (s.setM b).sigma = s.sigma := rfl
@[simp] theorem State.setM_m (b : Block) : (s.setM b).m = b := rfl
@[simp] theorem State.setM_engine (b : Block) : (s.setM b).engine = s.engine := rfl
@[simp] theorem State.setM_busy (b : Block) : (s.setM b).busy = s.busy := rfl
@[simp] theorem State.setM_code (b : Block) : (s.setM b).code = s.code := rfl
@[simp] theorem State.setM_pend (b : Block) : (s.setM b).pend = s.pend := rfl
@[simp] theorem State.setM_tlen (b : Block) : (s.setM b).tlen = s.tlen := rfl
@[simp] theorem State.setM_config (b : Block) : (s.setM b).config = s.config := rfl
@[simp] theorem State.setM_events (b : Block) : (s.setM b).events = s.events := rfl
@[simp] theorem State.setM_reads (b : Block) : (s.setM b).reads = s.reads := rfl

@[simp] theorem State.withEvents_withEvents (a b : List Event) : (s.withEvents a).withEvents b = s.withEvents b := rfl
@[simp] theorem State.withEvents_self : s.withEvents s.events = s := rfl
@[simp] theorem State.chain_eq : s.chain = ⟨s.h, s.n, s.sigma⟩ := rfl

end Sys2Proof.Machine
end

