-- ==== Sys2Proof/Laws/Ops.lean ====
section
/-! SUPPORT. For each shared operation, once, everything it can do; the provers cite these instead of unfolding. -/

namespace Sys2Proof.Machine

/-! ### Complete, the gate and the sequence check -/

/-- `Complete()` with PEND = 0 does nothing (R207). -/
theorem State.complete_of_not_pend {s : State} (h : s.pend = false) : s.complete = s := by simp [State.complete, h]

/-- `Complete()` with PEND = 1 clears it and enters ERROR with code 4 (R207). -/
theorem State.complete_of_pend {s : State} (h : s.pend = true) :
    s.complete = s.clearPend.enterError .busyWrite := by simp [State.complete, h]

/-- Everything `Complete()` can do (R207). -/
theorem State.complete_cases (s : State) :
    (s.pend = false ∧ s.complete = s) ∨ (s.pend = true ∧ s.complete = s.clearPend.enterError .busyWrite) := by
  cases h : s.pend
  · exact .inl ⟨rfl, State.complete_of_not_pend h⟩
  · exact .inr ⟨rfl, State.complete_of_pend h⟩

/-- Everything the gate of Issue can do (R160, R205). -/
theorem State.gate_cases (s : State) (act : State → State) :
    (s.busy = true ∧ s.gate act = s.discardWrite) ∨
    (s.busy = false ∧ s.engine = .error ∧ s.gate act = s) ∨
    (s.busy = false ∧ s.engine ≠ .error ∧ s.gate act = act s) := by
  unfold State.gate
  cases hb : s.busy
  · by_cases he : s.engine = .error
    · exact .inr (.inl ⟨rfl, he, by simp [he]⟩)
    · exact .inr (.inr ⟨rfl, he, by simp [he]⟩)
  · exact .inl ⟨rfl, by simp⟩

/-- Everything the sequence check can do (R160, R203). -/
theorem State.inSequence_cases (s : State) (act : State → State) :
    (s.busy = true ∧ s.inSequence act = s.discardWrite) ∨
    (s.busy = false ∧ s.engine = .error ∧ s.inSequence act = s) ∨
    (s.busy = false ∧ s.engine ≠ .error ∧ s.engine ≠ .full ∧ s.inSequence act = s.enterError .sequence) ∨
    (s.busy = false ∧ s.engine = .full ∧ s.inSequence act = act s) := by
  unfold State.inSequence
  rcases s.gate_cases (fun s => if s.engine = .full then act s else s.enterError .sequence) with
    ⟨hb, e⟩ | ⟨hb, he, e⟩ | ⟨hb, he, e⟩
  · exact .inl ⟨hb, e⟩
  · exact .inr (.inl ⟨hb, he, e⟩)
  · by_cases hf : s.engine = .full
    · exact .inr (.inr (.inr ⟨hb, hf, by rw [e, if_pos hf]⟩))
    · exact .inr (.inr (.inl ⟨hb, he, hf, by rw [e, if_neg hf]⟩))

/-! ### The window -/

/-- The accesses the window takes, and the offset each reaches (R50, R57). -/
theorem State.windowOffset_ok {s : State} {addr bytes off : Nat} :
    s.windowOffset addr bytes = .ok off ↔
      bytes = 4 ∧ addr = s.config.coreBase + off ∧ off < windowBytes ∧ off % 4 = 0 := by
  unfold State.windowOffset
  split
  · next h =>
    split
    · next h2 =>
      constructor
      · intro e; cases e
        exact ⟨h2.1, by omega, by omega, h2.2⟩
      · rintro ⟨-, rfl, -, -⟩
        congr 1; omega
    · next h2 =>
      constructor
      · intro e; cases e
      · rintro ⟨rfl, rfl, -, h3⟩
        exact absurd ⟨rfl, by rw [Nat.add_sub_cancel_left]; exact h3⟩ h2
  · next h =>
    constructor
    · intro e; cases e
    · rintro ⟨-, rfl, h3, -⟩
      exact absurd ⟨Nat.le_add_right _ _, Nat.add_lt_add_left h3 _⟩ h

/-- An aligned 32-bit access at an offset of the window reaches it (R55 to R57). -/
theorem State.windowOffset_at (s : State) (off : Nat) (h : off < windowBytes) (ha : off % 4 = 0) :
    s.windowOffset (s.config.coreBase + off) 4 = .ok off := State.windowOffset_ok.mpr ⟨rfl, rfl, h, ha⟩

/-- The offset depends on CORE_BASE alone. -/
theorem State.windowOffset_congr {s s' : State} (h : s.config.coreBase = s'.config.coreBase) (addr bytes : Nat) :
    s.windowOffset addr bytes = s'.windowOffset addr bytes := by unfold State.windowOffset; rw [h]

/-- A window read looks at the block registers and STATUS only. -/
theorem State.readWindow_congr {s s' : State} (hm : s.m = s'.m) (hh : s.h = s'.h) (hn : s.n = s'.n)
    (hs : s.sigma = s'.sigma) (he : s.engine = s'.engine) (hb : s.busy = s'.busy) (hc : s.code = s'.code)
    (hp : s.pend = s'.pend) (off : Nat) : s.readWindow off = s'.readWindow off := by
  simp only [State.readWindow, State.statusWord, State.err, State.dvalid, hm, hh, hn, hs, he, hb, hc, hp]

/-- Everything a write to M can do (R56, R206). -/
theorem State.writeM_cases (s : State) (j : Nat) (v : Word) :
    (s.busy = true ∧ s.writeM j v = s.discardWrite) ∨
    (s.busy = false ∧ s.writeM j v = s.setM (Block.setWord s.m j v)) := by
  unfold State.writeM
  cases s.busy <;> simp

/-! ### The sequencer -/

/-- Everything the sequencer can do (R162). -/
theorem State.sequencerTurn_next {s t : State} (h : s.sequencerTurn = .next t) :
    (s.busy = false ∧ t = s) ∨ (s.busy = true ∧
      ((s.engine = .full ∧ t = s.blockStep) ∨ (s.engine = .tail ∧ t = s.tailStep) ∨
       (s.engine = .finlen ∧ t = s.finlenStep) ∨ (s.engine = .finsum ∧ t = s.finsumStep))) := by
  unfold State.sequencerTurn at h
  cases hb : s.busy
  · rw [hb] at h
    simp at h
    exact .inl ⟨rfl, h.symm⟩
  · rw [hb] at h
    cases he : s.engine <;> simp [he] at h <;> subst h <;> simp

end Sys2Proof.Machine
end

