-- ==== Sys2Proof/Laws/Step.lean ====
section
/-! SUPPORT. The inversion of one step: everything a step that gives a next state can have done. -/

namespace Sys2Proof.Machine

/-- The head event lets the sequencer move: it is a sequencer turn, or there is no event left. -/
abbrev SequencerEvent (e : Option Event) : Prop := e = none ∨ e = some .sequencer

/-- `Moves u e t`: from `u`, the state whose head event `e` has been consumed, the event leads to `t`. One constructor for
each thing that can happen (R55, R56, R160, R162, R240). -/
inductive Moves (u : State) : Option Event → State → Prop where
  | noTurn {e} (he : SequencerEvent e) (hb : u.busy = false) : Moves u e u
  | blockStep {e} (he : SequencerEvent e) (hb : u.busy = true) (hs : u.engine = .full) : Moves u e u.blockStep
  | tailStep {e} (he : SequencerEvent e) (hb : u.busy = true) (hs : u.engine = .tail) : Moves u e u.tailStep
  | finlenStep {e} (he : SequencerEvent e) (hb : u.busy = true) (hs : u.engine = .finlen) : Moves u e u.finlenStep
  | finsumStep {e} (he : SequencerEvent e) (hb : u.busy = true) (hs : u.engine = .finsum) : Moves u e u.finsumStep
  | read {addr bytes off} (ho : u.windowOffset addr bytes = .ok off) :
      Moves u (some (.read addr bytes)) (u.logRead (u.readWindow off))
  | discarded {addr bytes v off} (ho : u.windowOffset addr bytes = .ok off)
      (hr : off = 0x000 ∨ (0x040 ≤ off ∧ off ≤ 0x07C)) (hb : u.busy = true) :
      Moves u (some (.write addr bytes v)) u.discardWrite
  | init {addr bytes v} (ho : u.windowOffset addr bytes = .ok 0x000) (hb : u.busy = false)
      (hd : decode v = .instr .init) : Moves u (some (.write addr bytes v)) u.startHash
  | ignoredInError {addr bytes v} (ho : u.windowOffset addr bytes = .ok 0x000) (hb : u.busy = false)
      (hs : u.engine = .error) (hd : decode v ≠ .instr .init) : Moves u (some (.write addr bytes v)) u
  | illegal {addr bytes v} (ho : u.windowOffset addr bytes = .ok 0x000) (hb : u.busy = false)
      (hs : u.engine ≠ .error) (hd : decode v = .illegal) :
      Moves u (some (.write addr bytes v)) (u.enterError .illegalCmd)
  | badLen {addr bytes v len} (ho : u.windowOffset addr bytes = .ok 0x000) (hb : u.busy = false)
      (hs : u.engine ≠ .error) (hd : decode v = .badLen len) :
      Moves u (some (.write addr bytes v)) (u.enterError .tailLen)
  | outOfSequence {addr bytes v i} (ho : u.windowOffset addr bytes = .ok 0x000) (hb : u.busy = false)
      (hs : u.engine ≠ .error) (hf : u.engine ≠ .full) (hd : decode v = .instr i) (hi : i ≠ .init) :
      Moves u (some (.write addr bytes v)) (u.enterError .sequence)
  | block {addr bytes v} (ho : u.windowOffset addr bytes = .ok 0x000) (hb : u.busy = false)
      (hf : u.engine = .full) (hd : decode v = .instr .block) : Moves u (some (.write addr bytes v)) u.beginBlock
  | tail {addr bytes v r} (ho : u.windowOffset addr bytes = .ok 0x000) (hb : u.busy = false)
      (hf : u.engine = .full) (hd : decode v = .instr (.tail r)) (hr : r.toNat ≤ maxTailLen) :
      Moves u (some (.write addr bytes v)) (u.beginTail r)
  | setM {addr bytes v off} (ho : u.windowOffset addr bytes = .ok off) (hr : 0x040 ≤ off ∧ off ≤ 0x07C)
      (hb : u.busy = false) :
      Moves u (some (.write addr bytes v)) (u.setM (Block.setWord u.m ((off - 0x040) / 4) v))
  | ignoredWrite {addr bytes v off} (ho : u.windowOffset addr bytes = .ok off) (h0 : off ≠ 0x000)
      (hr : ¬ (0x040 ≤ off ∧ off ≤ 0x07C)) : Moves u (some (.write addr bytes v)) u
  | reset : Moves u (some .reset) u.applyReset

theorem moves_of_sequencerTurn {u t : State} {e : Option Event} (he : SequencerEvent e)
    (h : u.sequencerTurn = .next t) : Moves u e t := by
  rcases State.sequencerTurn_next h with ⟨hb, rfl⟩ | ⟨hb, ⟨hs, rfl⟩ | ⟨hs, rfl⟩ | ⟨hs, rfl⟩ | ⟨hs, rfl⟩⟩
  · exact .noTurn he hb
  · exact .blockStep he hb hs
  · exact .tailStep he hb hs
  · exact .finlenStep he hb hs
  · exact .finsumStep he hb hs

theorem moves_of_issue {u t : State} {addr bytes : Nat} {v : Word} (ho : u.windowOffset addr bytes = .ok 0x000)
    (h : u.issue v = .next t) : Moves u (some (.write addr bytes v)) t := by
  unfold State.issue at h
  split at h
  · next i hd =>
    cases i with
    | init =>
      cases hb : u.busy <;> simp [exec, execInit, hb] at h <;> subst h
      · exact .init ho hb hd
      · exact .discarded ho (.inl rfl) hb
    | block =>
      simp only [exec, execBlock, Host.Outcome.next.injEq] at h
      subst h
      rcases u.inSequence_cases State.beginBlock with ⟨hb, e⟩ | ⟨hb, hs, e⟩ | ⟨hb, hs, hf, e⟩ | ⟨hb, hf, e⟩ <;> rw [e]
      · exact .discarded ho (.inl rfl) hb
      · exact .ignoredInError ho hb hs (by simp [hd])
      · exact .outOfSequence ho hb hs hf hd (by simp)
      · exact .block ho hb hf hd
    | tail r =>
      have hr := decode_tail_le hd
      simp only [exec, execTail, if_pos hr, Host.Outcome.next.injEq] at h
      subst h
      rcases u.inSequence_cases (fun s => s.beginTail r) with
        ⟨hb, e⟩ | ⟨hb, hs, e⟩ | ⟨hb, hs, hf, e⟩ | ⟨hb, hf, e⟩ <;> rw [e]
      · exact .discarded ho (.inl rfl) hb
      · exact .ignoredInError ho hb hs (by simp [hd])
      · exact .outOfSequence ho hb hs hf hd (by simp)
      · exact .tail ho hb hf hd hr
  · next hd =>
    simp only [State.issueBadLen, Host.Outcome.next.injEq] at h
    subst h
    rcases u.gate_cases (fun s => s.enterError .tailLen) with ⟨hb, e⟩ | ⟨hb, hs, e⟩ | ⟨hb, hs, e⟩ <;> rw [e]
    · exact .discarded ho (.inl rfl) hb
    · exact .ignoredInError ho hb hs (by simp [hd])
    · exact .badLen ho hb hs hd
  · next hd =>
    simp only [State.issueIllegal, Host.Outcome.next.injEq] at h
    subst h
    rcases u.gate_cases (fun s => s.enterError .illegalCmd) with ⟨hb, e⟩ | ⟨hb, hs, e⟩ | ⟨hb, hs, e⟩ <;> rw [e]
    · exact .discarded ho (.inl rfl) hb
    · exact .ignoredInError ho hb hs (by simp [hd])
    · exact .illegal ho hb hs hd

theorem moves_of_handle {u t : State} {e : Event} (h : u.handle e = .next t) : Moves u (some e) t := by
  cases e with
  | read addr bytes =>
    cases ho : u.windowOffset addr bytes with
    | error f => simp [State.handle, ho] at h
    | ok off =>
      simp only [State.handle, ho, Host.Outcome.next.injEq] at h
      subst h
      exact .read ho
  | write addr bytes v =>
    cases ho : u.windowOffset addr bytes with
    | error f => simp [State.handle, ho] at h
    | ok off =>
      simp only [State.handle, ho, State.writeWindow] at h
      split at h
      · next h0 => subst h0; exact moves_of_issue ho h
      · next h0 =>
        split at h
        · next hr =>
          cases h
          rcases u.writeM_cases ((off - 0x040) / 4) v with ⟨hb, e⟩ | ⟨hb, e⟩ <;> rw [e]
          · exact .discarded ho (.inr hr) hb
          · exact .setM ho hr hb
        · next hr => cases h; exact .ignoredWrite ho h0 hr
  | reset => cases h; exact .reset
  | sequencer => exact moves_of_sequencerTurn (.inr rfl) h

/-- Everything a step can do: it consumes the head event and makes one of the moves. -/
theorem step_moves {s t : State} (h : step s = .next t) : Moves (s.withEvents s.events.tail) s.events.head? t := by
  unfold step at h
  split at h
  · next he =>
    have h0 : s.withEvents [] = s := by
      have := s.withEvents_self
      rwa [he] at this
    rw [he, List.tail_nil, h0]
    exact moves_of_sequencerTurn (.inl rfl) h
  · next e rest he => rw [he]; exact moves_of_handle h

/-- A step at an event is what the event does (R60). -/
theorem step_cons {s : State} {e : Event} {rest : List Event} (h : s.events = e :: rest) :
    step s = (s.withEvents rest).handle e := by unfold step; rw [h]

/-- A step with no event left is the sequencer's (R162, R250). -/
theorem step_nil {s : State} (h : s.events = []) : step s = s.sequencerTurn := by unfold step; rw [h]

end Sys2Proof.Machine
end

