-- ==== Sys2Proof/Laws/Window.lean ====
section
/-! SUPPORT. The register window: what each offset reads, and a step at a host access of it. -/

namespace Sys2Proof.Machine

/-- Offset 0x004 reads STATUS (R51). -/
theorem State.readWindow_status (s : State) : s.readWindow 0x004 = s.statusWord := rfl

/-- Word `j` of M stands at 0x040 + 4j (R51). -/
theorem State.readWindow_m (s : State) {j : Nat} (hj : j < 16) : s.readWindow (0x040 + 4 * j) = Block.word s.m j := by
  unfold State.readWindow
  rw [if_neg (by omega), if_neg (by omega), if_pos (by omega)]
  congr 1; omega

/-- Word `j` of H stands at 0x080 + 4j (R51). -/
theorem State.readWindow_h (s : State) {j : Nat} (hj : j < 16) : s.readWindow (0x080 + 4 * j) = Block.word s.h j := by
  unfold State.readWindow
  rw [if_neg (by omega), if_neg (by omega), if_neg (by omega), if_pos (by omega)]
  congr 1; omega

/-- Word `j` of N stands at 0x0C0 + 4j (R51). -/
theorem State.readWindow_n (s : State) {j : Nat} (hj : j < 16) : s.readWindow (0x0C0 + 4 * j) = Block.word s.n j := by
  unfold State.readWindow
  rw [if_neg (by omega), if_neg (by omega), if_neg (by omega), if_neg (by omega), if_pos (by omega)]
  congr 1; omega

/-- Word `j` of SIGMA stands at 0x100 + 4j (R51). -/
theorem State.readWindow_sigma (s : State) {j : Nat} (hj : j < 16) :
    s.readWindow (0x100 + 4 * j) = Block.word s.sigma j := by
  unfold State.readWindow
  rw [if_neg (by omega), if_neg (by omega), if_neg (by omega), if_neg (by omega), if_neg (by omega), if_pos (by omega)]
  congr 1; omega

/-- A step at an aligned 32-bit write of the window (R56). -/
theorem step_write {s : State} {off : Nat} {v : Word} {rest : List Event} (h : off < 0x200) (ha : off % 4 = 0)
    (he : s.events = .write (s.config.coreBase + off) 4 v :: rest) :
    step s = (s.withEvents rest).writeWindow off v := by
  have ho : (s.withEvents rest).windowOffset (s.config.coreBase + off) 4 = .ok off :=
    (s.withEvents rest).windowOffset_at off h ha
  rw [step_cons he]
  simp only [State.handle, ho]

/-- A step at an aligned 32-bit read of the window (R55). -/
theorem step_read {s : State} {off : Nat} {rest : List Event} (h : off < 0x200) (ha : off % 4 = 0)
    (he : s.events = .read (s.config.coreBase + off) 4 :: rest) :
    step s = .next ((s.withEvents rest).logRead (s.readWindow off)) := by
  have ho : (s.withEvents rest).windowOffset (s.config.coreBase + off) 4 = .ok off :=
    (s.withEvents rest).windowOffset_at off h ha
  rw [step_cons he]
  simp only [State.handle, ho]
  rfl

/-- The write to CMD that a successful access reaches is the host's CMD write (R51). -/
theorem write_eq_cmdWrite {s : State} {addr bytes : Nat} {v : Word} (h : s.windowOffset addr bytes = .ok 0x000) :
    Event.write addr bytes v = s.cmdWrite v := by
  obtain ⟨rfl, rfl, -, -⟩ := State.windowOffset_ok.mp h
  rfl

end Sys2Proof.Machine
end

