-- ==== Sys2Proof/Laws/Driver.lean ====
section
/-! SUPPORT. A host and its core together: what one turn does, runs joined, and fair schedules. -/

namespace Sys2Proof.Machine

/-! ### Turns -/

/-- Everything a turn that gives a next state can have done. -/
theorem Hosted.turn_next {p q : Hosted} {a : Agent} (h : p.turn a = .next q) :
    (a = .sequencer ∧ q.program = p.program ∧ step (p.core.withEvents [.sequencer]) = .next q.core) ∨
    (a = .host ∧ p.program = [] ∧ q = p) ∨
    (a = .host ∧ ∃ op rest, p.program = op :: rest ∧ step (p.core.withEvents [op.event]) = .next q.core ∧
      q.program = if op.repeats q.core then op :: rest else rest) := by
  cases a with
  | sequencer =>
    simp only [Hosted.turn] at h
    split at h <;> cases h
    next hs => exact .inl ⟨rfl, rfl, hs⟩
  | host =>
    simp only [Hosted.turn] at h
    split at h
    · next hp => cases h; exact .inr (.inl ⟨rfl, hp, rfl⟩)
    · next op rest hp =>
      split at h <;> cases h
      next hs => exact .inr (.inr ⟨rfl, op, rest, hp, hs, rfl⟩)

/-- The host's turn at a single access: the access, then the next line. -/
theorem Hosted.turn_access {s t : State} {e : Event} {rest : List HostOp} (h : step (s.withEvents [e]) = .next t) :
    Hosted.turn ⟨.access e :: rest, s⟩ .host = .next ⟨rest, t⟩ := by
  simp [Hosted.turn, HostOp.event, HostOp.repeats, h]

/-- The sequencer's turn where its step gives a next state: the program stays. -/
theorem Hosted.turn_sequencer {s t : State} {p : List HostOp} (h : step (s.withEvents [.sequencer]) = .next t) :
    Hosted.turn ⟨p, s⟩ .sequencer = .next ⟨p, t⟩ := by
  simp [Hosted.turn, h]

/-- The sequencer's turn with BUSY = 0 changes nothing of the core (R162). -/
theorem Hosted.turn_sequencer_idle {s : State} {p : List HostOp} (hb : s.busy = false) :
    Hosted.turn ⟨p, s⟩ .sequencer = .next ⟨p, s.withEvents []⟩ := by
  refine Hosted.turn_sequencer ?_
  rw [step_cons (rest := []) rfl]
  simp [State.handle, State.sequencerTurn, hb]

/-- Bit 8 of STATUS is BUSY (R27). -/
theorem State.statusWord_bit8 (s : State) : s.statusWord.getLsbD 8 = s.busy := by
  unfold State.statusWord
  simp only [BitVec.getLsbD_append]
  simp

/-- One turn of the host at WAIT: it reads STATUS, and the line stays exactly when BUSY = 1 (R86). -/
theorem Hosted.turn_wait (s : State) (rest : List HostOp) :
    Hosted.turn ⟨.wait s.config.coreBase :: rest, s⟩ .host =
      .next ⟨if s.busy then .wait s.config.coreBase :: rest else rest, (s.withEvents []).logRead s.statusWord⟩ := by
  have h : step (s.withEvents [(HostOp.wait s.config.coreBase).event]) =
      .next ((s.withEvents []).logRead s.statusWord) :=
    step_read (s := s.withEvents [(HostOp.wait s.config.coreBase).event]) (off := 0x004) (by omega) (by omega) rfl
  simp only [Hosted.turn, h, HostOp.repeats, State.logRead, List.headD_cons, State.statusWord_bit8]

/-! ### Runs -/

/-- One turn of a run. -/
theorem Hosted.play_cons {p q : Hosted} {a : Agent} (h : p.turn a = .next q) (sched : List Agent) :
    p.play (a :: sched) = q.play sched := by
  simp only [Hosted.play, h]

/-- A run of two schedules in a row is a run of the second from where the first leads. -/
theorem Hosted.play_append {p q : Hosted} {a : List Agent} (h : p.play a = .next q) (b : List Agent) :
    p.play (a ++ b) = q.play b := by
  induction a generalizing p with
  | nil => cases h; rfl
  | cons x a ih =>
    simp only [List.cons_append, Hosted.play] at h ⊢
    split at h
    · exact ih h
    · cases h
    · cases h

/-! ### Schedules -/

/-- What is left of a schedule after `j` turns. -/
def afterTurns (sched : Nat → Agent) (j : Nat) : Nat → Agent := fun i => sched (j + i)

/-- The first turns of a schedule, and then the first turns of what is left. -/
theorem firstTurns_add (sched : Nat → Agent) (j k : Nat) :
    firstTurns sched (j + k) = firstTurns sched j ++ firstTurns (afterTurns sched j) k := by
  simp [firstTurns, List.range_add, afterTurns, Function.comp_def]

/-- The first turn, and then the others. -/
theorem firstTurns_succ (sched : Nat → Agent) (k : Nat) :
    firstTurns sched (k + 1) = sched 0 :: firstTurns (afterTurns sched 1) k := by
  rw [Nat.add_comm, firstTurns_add]
  rfl

/-- What is left of a fair schedule is fair. -/
theorem FairSchedule.afterTurns {sched : Nat → Agent} (h : FairSchedule sched) (j : Nat) :
    FairSchedule (afterTurns sched j) := fun a k => by
  obtain ⟨i, hi, e⟩ := h a (j + k)
  exact ⟨i - j, by omega, by rw [Machine.afterTurns, ← e]; congr 1; omega⟩

/-- In a fair schedule each agent moves after finitely many turns of the other one alone. -/
theorem FairSchedule.first {sched : Nat → Agent} (h : FairSchedule sched) (a : Agent) :
    ∃ k, sched k = a ∧ ∀ i < k, sched i ≠ a := by
  obtain ⟨j, -, hj⟩ := h a 0
  have hex : ∃ k, sched k = a := ⟨j, hj⟩
  exact ⟨Nat.find hex, Nat.find_spec hex, fun i hi => Nat.find_min hex hi⟩

end Sys2Proof.Machine
end

