-- ==== Sys2Proof/Laws/PerInstr.lean ====
section
/-! SUPPORT. The per-instruction family EncodedFields: the fields of each command's word (30_encoding.md R80, R81). -/

namespace Sys2Proof.Laws

/-- The opcode of each command (R81). -/
def opcodeOf : Instr → BitVec 4
  | .init => 0x1#4
  | .block => 0x2#4
  | .tail _ => 0x3#4

/-- The LEN field of each command: the operand of TAIL, 0 for every other opcode (R80). -/
def lenOf : Instr → Len
  | .init => 0#7
  | .block => 0#7
  | .tail len => len

/-- The command's word holds its opcode in OP, its operand in LEN, and 0 in the reserved bits [7:4] and [31:15] (R80). -/
def EncodedFields.Statement (i : Instr) : Prop :=
  opField (encode i) = opcodeOf i ∧ lenField (encode i) = lenOf i ∧
    (encode i).extractLsb' 4 4 = 0#4 ∧ (encode i).extractLsb' 15 17 = 0#17

theorem EncodedFields.init : EncodedFields.Statement .init := by
  refine ⟨?_, ?_, ?_, ?_⟩ <;> decide

theorem EncodedFields.block : EncodedFields.Statement .block := by
  refine ⟨?_, ?_, ?_, ?_⟩ <;> decide

theorem EncodedFields.tail (len : Len) : EncodedFields.Statement (.tail len) := by
  revert len
  unfold EncodedFields.Statement
  decide

end Sys2Proof.Laws
end

