-- ==== Sys2Proof/Laws/Run.lean ====
section
/-! SUPPORT. Runs of many steps: one step at a time, joined runs, an idle core, and runs through a list of events. -/

namespace Sys2Proof.Machine

/-- One step of a run. -/
theorem run_succ {s t : State} (h : step s = .next t) (k : Nat) :
    Host.Core.run Sys2Proof.core (k + 1) s = Host.Core.run Sys2Proof.core k t := by
  have h' : Sys2Proof.core.step s = .next t := h
  simp only [Host.Core.run, h']

/-- A run of `j + k` steps is a run of `k` steps from where `j` steps lead. -/
theorem run_add {j : Nat} {s t : State} (h : Host.Core.run Sys2Proof.core j s = .next t) (k : Nat) :
    Host.Core.run Sys2Proof.core (j + k) s = Host.Core.run Sys2Proof.core k t := by
  induction j generalizing s with
  | zero => cases h; rw [Nat.zero_add]
  | succ j ih =>
    rw [Nat.add_right_comm]
    simp only [Host.Core.run] at h ⊢
    cases hs : Sys2Proof.core.step s with
    | next u => rw [hs] at h; exact ih h
    | fault r => rw [hs] at h; cases h
    | refused r => rw [hs] at h; cases h

/-- A core with BUSY = 0 and no event to come is idle and keeps all state (R214). -/
theorem run_idle {s : State} (he : s.events = []) (hb : s.busy = false) (k : Nat) :
    Host.Core.run Sys2Proof.core k s = .next s := by
  induction k with
  | zero => rfl
  | succ k ih =>
    rw [run_succ (t := s) ((step_nil he).trans (by simp [State.sequencerTurn, hb]))]
    exact ih

/-! ### Runs through a list of events -/

/-- The events `evs` lead from `s` to `t`, whatever events stand behind them; the events fields of `s` and `t` are not
looked at. -/
def State.Leads (s : State) (evs : List Event) (t : State) : Prop :=
  ∀ rest, Host.Core.run Sys2Proof.core evs.length (s.withEvents (evs ++ rest)) = .next (t.withEvents rest)

theorem State.Leads.nil (s : State) : s.Leads [] s := fun _ => rfl

/-- One event and then the others. -/
theorem State.Leads.cons {s t u : State} {e : Event} {evs : List Event}
    (h : ∀ rest, (s.withEvents rest).handle e = .next (t.withEvents rest)) (h' : t.Leads evs u) :
    s.Leads (e :: evs) u := fun rest => by
  have hs : step (s.withEvents (e :: evs ++ rest)) = .next (t.withEvents (evs ++ rest)) :=
    (step_cons (rest := evs ++ rest) rfl).trans (h (evs ++ rest))
  rw [List.length_cons, run_succ hs]
  exact h' rest

theorem State.Leads.single {s t : State} {e : Event}
    (h : ∀ rest, (s.withEvents rest).handle e = .next (t.withEvents rest)) : s.Leads [e] t := .cons h (.nil t)

/-- Events in a row. -/
theorem State.Leads.append {s t u : State} {a b : List Event} (h : s.Leads a t) (h' : t.Leads b u) :
    s.Leads (a ++ b) u := fun rest => by
  rw [List.length_append, List.append_assoc, run_add (h (b ++ rest))]
  exact h' rest

/-- What leads somewhere runs there. -/
theorem State.Leads.runEvents {s t : State} {evs : List Event} (h : s.Leads evs t) :
    s.runEvents evs = .next (t.withEvents []) := by
  have := h []
  rwa [List.append_nil] at this

end Sys2Proof.Machine
end

