-- ==== Sys2Proof/Machine/Assembler.lean ====
section
/-! DEFINITION. The disassembly of a command word (30_encoding.md R87). The assembly syntax's meaning is the host accesses
of Driver.lean (R85, R86). -/

namespace Sys2Proof.Machine

/-- A word's `n` low hexadecimal digits, in lower case, most significant first. -/
def hexDigits (v : Nat) : Nat → String
  | 0 => ""
  | n + 1 => hexDigits (v / 16) n ++ String.singleton (Nat.digitChar (v % 16))

/-- `.word 0x%08x` (R87). -/
def dotWord (v : Word) : String := ".word 0x" ++ hexDigits v.toNat 8

/-- The text R87 prints for a command word: `INIT`, `BLOCK`, `TAIL r` with `r` in decimal, or a `.word`. -/
def disassemble (v : Word) : String :=
  match decode v with
  | .instr .init => "INIT"
  | .instr .block => "BLOCK"
  | .instr (.tail len) => "TAIL " ++ Nat.repr len.toNat
  | .badLen _ => dotWord v ++ " ; TAIL len>63"
  | .illegal => dotWord v

end Sys2Proof.Machine
end

