-- ==== Sys2Proof/Tests/Slice0.lean ====
section
/-! SUPPORT. Tests with results taken from spec/95_test_vectors.md or written out from the rules, and, for every statement of
Certificates/Slice0/Obligations.lean that has hypotheses, a witness that meets them. -/

namespace Sys2Proof.Tests

open Sys2Proof.Machine

/-- A core with the reference tables and CORE_BASE 0x1000, in STATE `e` with BUSY `b` and the events `evs` to come. -/
def core1000 (e : EngineState) (b : Bool) (evs : List Event) : State :=
  { State.resetWith { referenceConfig with coreBase := 0x1000 } with engine := e, busy := b, events := evs }

/-- The STATUS word after one step; none where the machine stops. -/
def statusAfter (s : State) : Option Word :=
  match step s with
  | .next t => some (t.readWindow 0x004)
  | .fault _ => none
  | .refused _ => none

/-- The STATUS word after the host's write of `v` to CMD. -/
def statusAfterCmd (e : EngineState) (b : Bool) (v : Word) : Option Word :=
  statusAfter (core1000 e b [.write 0x1000 4 v])

/-! ### Well-formedness: each check refuses an ill-formed term (R81, R83) -/

theorem test_tail64_illFormed : (Instr.tail 64).wellFormed = false := by decide
theorem test_tail127_illFormed : (Instr.tail 127).wellFormed = false := by decide
theorem test_tail63_wellFormed : (Instr.tail 63).wellFormed = true := by decide
theorem test_init_block_wellFormed : Instr.init.wellFormed = true ∧ Instr.block.wellFormed = true := by decide

/-! ### Decoding, words written out bit by bit (R80 to R82; 95_test_vectors.md 2.13) -/

/-- INIT: reserved [31:15], LEN [14:8], reserved [7:4], OP [3:0] = 1. -/
theorem test_decode_init : decode 0b0000000000000000_0_0000000_0000_0001#32 = .instr .init := by decide
theorem test_decode_block : decode 0b0000000000000000_0_0000000_0000_0010#32 = .instr .block := by decide
theorem test_decode_tail0 : decode 0b0000000000000000_0_0000000_0000_0011#32 = .instr (.tail 0) := by decide
theorem test_decode_tail8 : decode 0b0000000000000000_0_0001000_0000_0011#32 = .instr (.tail 8) := by decide
theorem test_decode_tail63 : decode 0b0000000000000000_0_0111111_0000_0011#32 = .instr (.tail 63) := by decide
theorem test_decode_badLen64 : decode 0b0000000000000000_0_1000000_0000_0011#32 = .badLen 64 := by decide
theorem test_decode_badLen127 : decode 0b0000000000000000_0_1111111_0000_0011#32 = .badLen 127 := by decide
/-- Every word the spec lists as ILLEGAL. -/
theorem test_decode_illegal :
    [0x00000000#32, 0x00008003#32, 0x00000013#32, 0x00000083#32, 0x00000101#32, 0x00000102#32, 0x00000004#32, 0x0000000f#32,
      0x80000001#32, 0x00010003#32, 0xffffffff#32].map decode = List.replicate 11 .illegal := by decide

theorem test_encode : encode .init = 0x00000001#32 ∧ encode .block = 0x00000002#32 ∧ encode (.tail 8) = 0x00000803#32 ∧
    encode (.tail 63) = 0x00003f03#32 := by decide

theorem test_decodeTableWord : decodeTableWord 32 0x00000001 = some .init ∧ decodeTableWord 32 0x00000002 = some .block ∧
    decodeTableWord 32 0x00003f03 = some (.tail 63) ∧ decodeTableWord 32 0x00004003 = none ∧
    decodeTableWord 32 0x00000013 = none ∧ decodeTableWord 8 0x03 = some (.tail 0) := by decide

/-- R87's texts. -/
theorem test_disassemble : disassemble 0x00000001#32 = "INIT" ∧ disassemble 0x00000002#32 = "BLOCK" ∧
    disassemble 0x00003f03#32 = "TAIL 63" ∧ disassemble 0x00004003#32 = ".word 0x00004003 ; TAIL len>63" ∧
    disassemble 0x00000083#32 = ".word 0x00000083" := by decide +kernel

/-! ### withFetchWord places what the very next step runs -/

theorem test_fetch_init : step (State.reset.withFetchWord 32 0x00000001) = exec .init State.reset := rfl
theorem test_fetch_block : step (State.reset.withFetchWord 32 0x00000002) = exec .block State.reset := rfl
theorem test_fetch_tail : step (State.reset.withFetchWord 32 0x00000803) = exec (.tail 8) State.reset := rfl

/-! ### The commands, one step each: the STATUS words of 95_test_vectors.md 2.14, start states in its order -/

/-- INIT from IDLE, FULL, FULL busy, TAIL busy, DONE, ERROR. -/
theorem test_init_status : statusAfterCmd .idle false 0x1#32 = some 0x00000001#32 ∧
    statusAfterCmd .full false 0x1#32 = some 0x00000001#32 ∧ statusAfterCmd .full true 0x1#32 = some 0x00000901#32 ∧
    statusAfterCmd .tail true 0x1#32 = some 0x00000902#32 ∧ statusAfterCmd .done false 0x1#32 = some 0x00000001#32 ∧
    statusAfterCmd .error false 0x1#32 = some 0x00000001#32 := by decide +kernel

/-- BLOCK from IDLE, FULL, FULL busy, TAIL busy, DONE. -/
theorem test_block_status : statusAfterCmd .idle false 0x2#32 = some 0x00003207#32 ∧
    statusAfterCmd .full false 0x2#32 = some 0x00000101#32 ∧ statusAfterCmd .full true 0x2#32 = some 0x00000901#32 ∧
    statusAfterCmd .tail true 0x2#32 = some 0x00000902#32 ∧ statusAfterCmd .done false 0x2#32 = some 0x00003207#32 := by
  decide +kernel

/-- TAIL 0 from IDLE, FULL, FULL busy, TAIL busy, DONE. -/
theorem test_tail_status : statusAfterCmd .idle false 0x3#32 = some 0x00003207#32 ∧
    statusAfterCmd .full false 0x3#32 = some 0x00000102#32 ∧ statusAfterCmd .full true 0x3#32 = some 0x00000901#32 ∧
    statusAfterCmd .tail true 0x3#32 = some 0x00000902#32 ∧ statusAfterCmd .done false 0x3#32 = some 0x00003207#32 := by
  decide +kernel

/-- 0x00004003 (BADLEN) and 0x00000013 (ILLEGAL) from IDLE, FULL and FULL busy. -/
theorem test_badWord_status : statusAfterCmd .idle false 0x4003#32 = some 0x00002207#32 ∧
    statusAfterCmd .full false 0x4003#32 = some 0x00002207#32 ∧ statusAfterCmd .full true 0x4003#32 = some 0x00000901#32 ∧
    statusAfterCmd .idle false 0x13#32 = some 0x00001207#32 ∧ statusAfterCmd .full false 0x13#32 = some 0x00001207#32 ∧
    statusAfterCmd .full true 0x13#32 = some 0x00000901#32 := by decide +kernel

/-- In ERROR with CODE 3 every word but INIT is ignored. -/
theorem test_error_ignores : ([0x2#32, 0x3#32, 0x4003#32, 0x13#32].map fun v =>
    statusAfter { core1000 .error false [.write 0x1000 4 v] with code := .sequence }) =
      List.replicate 4 (some 0x00003207#32) := by decide +kernel

/-! ### The sequencer, STATUS words of 95_test_vectors.md 2.15 -/

theorem test_sequencer_status : statusAfter (core1000 .tail true []) = some 0x00000103#32 ∧
    statusAfter (core1000 .finlen true []) = some 0x00000104#32 ∧
    statusAfter (core1000 .finsum true []) = some 0x00000405#32 ∧
    statusAfter (core1000 .full true []) = some 0x00000001#32 := by decide +kernel

/-- A pending error ends the BLOCK step and the FINSUM step in ERROR with CODE 4. -/
theorem test_pending_status : statusAfter { core1000 .full true [] with pend := true } = some 0x00004207#32 ∧
    statusAfter { core1000 .finsum true [] with pend := true } = some 0x00004207#32 := by decide +kernel

/-! ### The window (95_test_vectors.md 2.16) -/

theorem test_setWord : Block.setWord (Block.setWord (blk 0) 0 0x01020304#32) 15 0xa1b2c3d4#32 =
    blk 0x010203040000000000000000000000000000000000000000000000000000000000000000000000000000000000000000000000000000000000000000a1b2c3d4 := by
  decide +kernel

/-- A 16-bit and a misaligned access are ACCESS_FAULT (R57). -/
theorem test_accessFault : step (core1000 .idle false [.read 0x1040 2]) = .fault .accessFault ∧
    step (core1000 .idle false [.write 0x1041 4 0#32]) = .fault .accessFault := ⟨rfl, rfl⟩

/-! ### WAIT is a loop on bit 8 of the word it reads (R86) -/

theorem test_wait_repeats : ∃ t, Hosted.turn ⟨[.wait 0x1000, .access (rd 0x1000 0x080)], core1000 .full true []⟩ .host =
    .next ⟨[.wait 0x1000, .access (rd 0x1000 0x080)], t⟩ ∧ t.reads = [0x00000101#32] := ⟨_, rfl, rfl⟩

theorem test_wait_ends : ∃ t, Hosted.turn ⟨[.wait 0x1000, .access (rd 0x1000 0x080)], core1000 .done false []⟩ .host =
    .next ⟨[.access (rd 0x1000 0x080)], t⟩ ∧ t.reads = [0x00000405#32] := ⟨_, rfl, rfl⟩

/-! ### The datapath (95_test_vectors.md 2.2, 2.4, 2.5 to 2.8) -/

theorem test_add_wraps : blockAdd (blk (2 ^ 512 - 1)) (blk (2 ^ 512 - 1)) = blk (2 ^ 512 - 2) := by decide +kernel
theorem test_pad : pad [] = blk 1 ∧ pad [0x01#8, 0x02#8] = blk 0x10102 := by decide +kernel
theorem test_sbox : [0x00#8, 0x01#8, 0x0f#8, 0x10#8, 0x7f#8, 0x80#8, 0xfe#8, 0xff#8].map (sboxAt gost2012) =
    [0xfc#8, 0xee#8, 0x4d#8, 0xe9#8, 0x57#8, 0xdf#8, 0x63#8, 0xb6#8] := by decide +kernel
/-- P of the bytes 0x00 .. 0x3f. -/
theorem test_permute : permute gost2012 (Block.ofBytes fun i => BitVec.ofNat 8 i) =
    blk 0x00081018202830380109111921293139020a121a222a323a030b131b232b333b040c141c242c343c050d151d252d353d060e161e262e363e070f171f272f373f := by
  decide +kernel
/-- L of the Block with bits 511 and 0 set. -/
theorem test_diffuse : diffuse gost2012 (blk (2 ^ 511 + 1)) =
    blk 0x8e20faa72ba0b470000000000000000000000000000000000000000000000000000000000000000000000000000000000000000000000000641c314b2b8ee083 := by
  decide +kernel
theorem test_lps_one : lps gost2012 (blk 1) =
    blk 0xb383fc2eced4a574b383fc2eced4a574b383fc2eced4a574b383fc2eced4a574b383fc2eced4a574b383fc2eced4a574b383fc2eced4a5747566a97c12dddeb7 := by
  decide +kernel

/-! ### Witnesses: for every statement with hypotheses, a state and operands that meet them

Each theorem is named after its statement. A statement whose hypotheses are one of several clauses has a witness at the
boundary values of each clause. -/

/-- A host read of the word at offset `off` of that core. -/
def rd1000 (off : Nat) : Event := .read (0x1000 + off) 4

/-- A host write of `v` at offset `off` of that core. -/
def wr1000 (off : Nat) (v : Word) : Event := .write (0x1000 + off) 4 v

/-- A core in ERROR with CODE 3. -/
def inError (evs : List Event) : State := { core1000 .error false evs with code := .sequence }

theorem core1000_idle_inv (evs : List Event) : (core1000 .idle false evs).Inv :=
  ⟨by simp [core1000], by simp [core1000, EngineState.mustBeBusy], by simp [core1000, State.resetWith],
    by simp [core1000, State.resetWith], by simp [core1000, State.resetWith]⟩

theorem core1000_full_inv (b : Bool) (evs : List Event) : (core1000 .full b evs).Inv :=
  ⟨by simp [core1000, EngineState.mayBeBusy], by simp [core1000, EngineState.mustBeBusy],
    by simp [core1000, State.resetWith], by simp [core1000, State.resetWith], by simp [core1000, State.resetWith]⟩

theorem core1000_tail_inv (evs : List Event) : (core1000 .tail true evs).Inv :=
  ⟨by simp [core1000, EngineState.mayBeBusy], by simp [core1000], by simp [core1000],
    by simp [core1000, State.resetWith], by simp [core1000, State.resetWith]⟩

theorem inError_inv (evs : List Event) : (inError evs).Inv :=
  ⟨by simp [inError, core1000], by simp [inError, core1000, EngineState.mustBeBusy],
    by simp [inError, core1000, State.resetWith], by simp [inError, core1000],
    by simp [inError, core1000, State.resetWith]⟩

theorem test_witness_DecodeOfEncode : Instr.init.wellFormed = true ∧ Instr.block.wellFormed = true ∧
    (Instr.tail 0).wellFormed = true ∧ (Instr.tail 63).wellFormed = true := by decide

theorem test_witness_StepRunsDecodedCommand :
    ((core1000 .full false [wr1000 0 0x1#32]).events = (core1000 .full false []).cmdWrite 0x1#32 :: [] ∧
      decode 0x1#32 = .instr .init) ∧
    ((core1000 .full false [wr1000 0 0x2#32]).events = (core1000 .full false []).cmdWrite 0x2#32 :: [] ∧
      decode 0x2#32 = .instr .block) ∧
    ((core1000 .full false [wr1000 0 0x3f03#32]).events = (core1000 .full false []).cmdWrite 0x3f03#32 :: [] ∧
      decode 0x3f03#32 = .instr (.tail 63)) := by decide

theorem test_witness_PlacedCommandIsRunNext : (Instr.tail 63).wellFormed = true ∧
    step ((core1000 .full false []).withFetchWord 32 0x3f03) = exec (.tail 63) (core1000 .full false []) := ⟨by decide, rfl⟩

theorem test_witness_SequencerMovesWhenScheduled : (core1000 .full true []).events = [] ∧
    (core1000 .full true [.sequencer, rd1000 4]).events = .sequencer :: [rd1000 4] := by decide

theorem test_witness_InitStartsHash : (inError []).busy = false ∧ (core1000 .full false []).busy = false := by decide

theorem test_witness_BlockIssueSetsBusy :
    (core1000 .full false []).busy = false ∧ (core1000 .full false []).engine = .full := by decide

theorem test_witness_TailIssueLatchesLength :
    (core1000 .full false []).busy = false ∧ (core1000 .full false []).engine = .full ∧
    (0#7).toNat ≤ 63 ∧ (63#7).toNat ≤ 63 := by decide

/-- Every command answers a next state; the offsets are the ends of the two clauses of the frame. -/
theorem test_witness_CommandIssueFrame :
    (∃ t, exec .init (core1000 .full false []) = .next t) ∧
    (∃ t, exec .block (core1000 .full false []) = .next t ∧ Instr.block ≠ .init) ∧
    (∃ t, exec (.tail 63) (core1000 .full false []) = .next t ∧ Instr.tail 63 ≠ .init) ∧
    (0x000 ≠ 0x004 ∧ 0x000 < 0x080) ∧ (0x07c ≠ 0x004 ∧ 0x07c < 0x080) ∧ (0x140 ≠ 0x004 ∧ 0x140 ≤ 0x140) :=
  ⟨⟨_, rfl⟩, ⟨_, rfl, by decide⟩, ⟨_, rfl, by decide⟩, by decide, by decide, by decide⟩

/-- Two cores that differ in H, STATE, CODE and TLEN. -/
theorem test_witness_InitForgetsTheOldHash :
    let s := core1000 .full false []
    let s' : State := { inError [] with h := blk 7, tlen := 63#7 }
    s.busy = false ∧ s'.busy = false ∧ s.pend = s'.pend ∧ s.m = s'.m ∧ s.config = s'.config ∧ s.events = s'.events ∧
      s.reads = s'.reads ∧ s.h ≠ s'.h ∧ s.tlen ≠ s'.tlen :=
  ⟨rfl, rfl, rfl, rfl, rfl, rfl, rfl, by decide +kernel, by decide⟩

theorem test_witness_IssueChecksInOrder :
    (core1000 .done false [wr1000 0 0x2#32, rd1000 4]).events = (core1000 .done false []).cmdWrite 0x2#32 :: [rd1000 4] := by
  decide

/-- An opcode that is none of the three, INIT and BLOCK with another bit, TAIL with a bit of [7:4] and with bit 15; and the
two ends of LEN 64 .. 127. -/
theorem test_witness_IllegalWordsRaiseErrors :
    (∀ v : Word, (core1000 .idle false [wr1000 0 v]).events = (core1000 .idle false []).cmdWrite v :: []) ∧
    (core1000 .idle false []).busy = false ∧ (core1000 .idle false []).engine ≠ .error ∧
    (opField 0x0#32 ≠ 1#4 ∧ opField 0x0#32 ≠ 2#4 ∧ opField 0x0#32 ≠ 3#4) ∧
    (opField 0x101#32 = 1#4 ∧ (0x101#32).extractLsb' 4 28 ≠ 0#28) ∧
    (opField 0x80000002#32 = 2#4 ∧ (0x80000002#32).extractLsb' 4 28 ≠ 0#28) ∧
    (opField 0x13#32 = 3#4 ∧ (0x13#32).extractLsb' 4 4 ≠ 0#4) ∧
    (opField 0x8003#32 = 3#4 ∧ (0x8003#32).extractLsb' 15 17 ≠ 0#17) ∧
    (opField 0x4003#32 = 3#4 ∧ (0x4003#32).extractLsb' 4 4 = 0#4 ∧ (0x4003#32).extractLsb' 15 17 = 0#17 ∧
      64 ≤ (lenField 0x4003#32).toNat) ∧
    (opField 0x7f03#32 = 3#4 ∧ (0x7f03#32).extractLsb' 4 4 = 0#4 ∧ (0x7f03#32).extractLsb' 15 17 = 0#17 ∧
      64 ≤ (lenField 0x7f03#32).toNat) :=
  ⟨fun _ => rfl, by decide⟩

theorem test_witness_CommandsOutOfSequence :
    Instr.block.wellFormed = true ∧ Instr.block ≠ .init ∧ (Instr.tail 63).wellFormed = true ∧ Instr.tail 63 ≠ .init ∧
    (core1000 .idle false []).busy = false ∧ (core1000 .idle false []).engine = .idle ∧
    (core1000 .done false []).busy = false ∧ (core1000 .done false []).engine = .done := by decide

/-- Offsets at both ends of each clause: CMD, M_W0, M_W15, and the reserved, H_W0 and last offsets. -/
theorem test_witness_BusyWritesAreDiscarded : ∀ off ∈ [0x000, 0x03c, 0x040, 0x07c, 0x080, 0x1fc],
    off < 0x200 ∧ off % 4 = 0 ∧ (core1000 .full true [wr1000 off 0x1#32]).busy = true ∧
    (core1000 .full true [wr1000 off 0x1#32]).events = .write ((core1000 .full true []).config.coreBase + off) 4 0x1#32 :: [] := by
  decide

/-- INIT and another word to CMD; the first and the last word of M, H, N and SIGMA. -/
theorem test_witness_ErrorStateBehaviour :
    (inError []).engine = .error ∧ (inError []).busy = false ∧
    (inError [wr1000 0 0x1#32]).events = (inError []).cmdWrite 0x1#32 :: [] ∧
    (inError [wr1000 0 0x2#32]).events = (inError []).cmdWrite 0x2#32 :: [] ∧
    ∀ j ∈ [0, 15], j < 16 ∧
      (inError [wr1000 (0x040 + 4 * j) 0x7#32]).events =
        .write ((inError []).config.coreBase + (0x040 + 4 * j)) 4 0x7#32 :: [] ∧
      (inError [rd1000 (0x040 + 4 * j)]).events = .read ((inError []).config.coreBase + (0x040 + 4 * j)) 4 :: [] ∧
      (inError [rd1000 (0x080 + 4 * j)]).events = .read ((inError []).config.coreBase + (0x080 + 4 * j)) 4 :: [] ∧
      (inError [rd1000 (0x0c0 + 4 * j)]).events = .read ((inError []).config.coreBase + (0x0c0 + 4 * j)) 4 :: [] ∧
      (inError [rd1000 (0x100 + 4 * j)]).events = .read ((inError []).config.coreBase + (0x100 + 4 * j)) 4 :: [] := by
  decide

/-- A step from ERROR at INIT, at Reset, and at a write that is ignored. -/
theorem test_witness_ErrorLeftOnlyByInitOrReset :
    (∃ t, (inError [wr1000 0 0x1#32]).engine = .error ∧ (inError [wr1000 0 0x1#32]).busy = false ∧
      step (inError [wr1000 0 0x1#32]) = .next t ∧ t.engine = .full) ∧
    (∃ t, step (inError [.reset]) = .next t ∧ t.engine = .idle) ∧
    (∃ t, step (inError [wr1000 0 0x2#32]) = .next t ∧ t.engine = .error) :=
  ⟨⟨_, rfl, rfl, rfl, rfl⟩, ⟨_, rfl, rfl⟩, ⟨_, rfl, rfl⟩⟩

/-- The ends of every range of the register map. -/
theorem test_witness_ReadsFollowTheRegisterMap :
    ∀ off ∈ [0x000, 0x004, 0x008, 0x03c, 0x040, 0x07c, 0x080, 0x0bc, 0x0c0, 0x0fc, 0x100, 0x13c, 0x140, 0x1fc],
      off < 0x200 ∧ off % 4 = 0 ∧
      (core1000 .full false [rd1000 off]).events = .read ((core1000 .full false []).config.coreBase + off) 4 :: [] := by
  decide

theorem test_witness_MessageWordWrite : ∀ b ∈ [false, true], ∀ j ∈ [0, 15], j < 16 ∧
    (core1000 .full b [wr1000 (0x040 + 4 * j) 0x01020304#32]).events =
      .write ((core1000 .full b []).config.coreBase + (0x040 + 4 * j)) 4 0x01020304#32 :: [] ∧
    (core1000 .full b [wr1000 (0x040 + 4 * j) 0x01020304#32]).busy = b := by decide

theorem test_witness_WritesElsewhereAreIgnored : ∀ off ∈ [0x004, 0x03c, 0x080, 0x1fc],
    off < 0x200 ∧ off % 4 = 0 ∧ off ≠ 0x000 ∧ (off < 0x040 ∨ 0x07c < off) ∧
    (core1000 .full false [wr1000 off 0x7#32]).events =
      .write ((core1000 .full false []).config.coreBase + off) 4 0x7#32 :: [] := by decide

/-- A misaligned word access at the last offset, and an 8-bit access at the first. -/
theorem test_witness_BadAccessIsAccessFault :
    (0x1ff < 0x200 ∧ 0x1ff % 4 ≠ 0 ∧
      (core1000 .full false [.read 0x11ff 4]).events = .read ((core1000 .full false []).config.coreBase + 0x1ff) 4 :: []) ∧
    ((1 : Nat) ≠ 4 ∧ (core1000 .full false [.write 0x1000 1 0x7#32]).events =
      .write ((core1000 .full false []).config.coreBase + 0x000) 1 0x7#32 :: []) := by decide

/-- The addresses just below and just above the window. -/
theorem test_witness_AccessOutsideTheWindowStops :
    (0xfff < (core1000 .full false []).config.coreBase ∧
      (core1000 .full false [.read 0xfff 4]).events = .read 0xfff 4 :: []) ∧
    ((core1000 .full false []).config.coreBase + 0x200 ≤ 0x1200 ∧
      (core1000 .full false [.write 0x1200 4 0x7#32]).events = .write 0x1200 4 0x7#32 :: []) := by decide

theorem test_witness_LdmLoadsTheBlock : (core1000 .done false []).busy = false := by decide

theorem test_witness_LdtPlacesTheTail : (List.replicate 63 0xaa#8).length ≤ 63 ∧ ([] : List Byte).length ≤ 63 := by decide

theorem test_witness_BlockStepCommits :
    (core1000 .full true []).busy = true ∧ (core1000 .full true []).engine = .full := by decide

theorem test_witness_TailStepCommits :
    (core1000 .tail true []).busy = true ∧ (core1000 .tail true []).engine = .tail := by decide

theorem test_witness_FinlenStepCommits :
    (core1000 .finlen true []).busy = true ∧ (core1000 .finlen true []).engine = .finlen := by decide

theorem test_witness_FinsumStepCommits :
    (core1000 .finsum true []).busy = true ∧ (core1000 .finsum true []).engine = .finsum := by decide

theorem test_witness_SequencerEnabledExactlyWhenBusy :
    (core1000 .full true []).Inv ∧ (core1000 .full false []).Inv :=
  ⟨core1000_full_inv _ _, core1000_full_inv _ _⟩

theorem test_witness_TailRunsToTheDigest :
    (core1000 .tail true []).busy = true ∧ (core1000 .tail true []).engine = .tail ∧ (core1000 .tail true []).events = [] := by
  decide

/-- A busy core at a read, and at a write that is discarded. -/
theorem test_witness_HostCannotDisturbABusyCommand :
    (∃ t, (core1000 .full true [rd1000 0x080]).busy = true ∧ step (core1000 .full true [rd1000 0x080]) = .next t ∧
      (core1000 .full true [rd1000 0x080]).events.head? = some (.read 0x1080 4)) ∧
    (∃ t, step (core1000 .tail true [wr1000 0x040 0x7#32]) = .next t ∧
      (core1000 .tail true [wr1000 0x040 0x7#32]).events.head? = some (.write 0x1040 4 0x7#32)) :=
  ⟨⟨_, rfl, rfl, rfl⟩, ⟨_, rfl, rfl⟩⟩

theorem test_witness_IssuedCommandsComplete :
    (core1000 .tail true [rd1000 4, wr1000 0 0x2#32]).Inv ∧ (core1000 .tail true [rd1000 4, wr1000 0 0x2#32]).accessesLegal :=
  ⟨core1000_tail_inv _, by simp [State.accessesLegal, core1000, rd1000, wr1000, State.accepts, State.windowOffset,
    State.resetWith, referenceConfig, windowBytes, Except.isOk, Except.toBool]⟩

theorem test_witness_StepKeepsInvariant :
    ∃ t, (core1000 .full false [wr1000 0 0x3#32]).Inv ∧ step (core1000 .full false [wr1000 0 0x3#32]) = .next t ∧
      t.engine = .tail := ⟨_, core1000_full_inv _ _, rfl, rfl⟩

theorem test_witness_LegalRunsNeverStop :
    (core1000 .full false [wr1000 0 0x4003#32]).Inv ∧ (core1000 .full false [wr1000 0 0x4003#32]).accessesLegal :=
  ⟨core1000_full_inv _ _, by simp [State.accessesLegal, core1000, wr1000, State.accepts, State.windowOffset,
    State.resetWith, referenceConfig, windowBytes, Except.isOk, Except.toBool]⟩

theorem test_witness_ParametersNeverChange : ∃ t, step (core1000 .full true []) = .next t := ⟨_, rfl⟩

/-- A BLOCK step changes N; INIT clears an H that is not zero; Reset does too. -/
theorem test_witness_AccumulatorWriters :
    (∃ t, step (core1000 .full true []) = .next t ∧ t.n ≠ (core1000 .full true []).n) ∧
    (∃ t, step { core1000 .done false [wr1000 0 0x1#32] with h := blk 7 } = .next t ∧ t.h ≠ blk 7) ∧
    (∃ t, step { core1000 .done false [.reset] with h := blk 7 } = .next t ∧ t.h ≠ blk 7) :=
  ⟨⟨_, rfl, by decide +kernel⟩, ⟨_, rfl, by decide +kernel⟩, ⟨_, rfl, by decide +kernel⟩⟩

theorem test_witness_MessageWriters :
    (∃ t, step (core1000 .full false [wr1000 0x07c 0x7#32]) = .next t ∧ t.m ≠ blk 0) ∧
    (∃ t, step { core1000 .full true [.reset] with m := blk 7 } = .next t ∧ t.m ≠ blk 7) :=
  ⟨⟨_, rfl, by decide +kernel⟩, ⟨_, rfl, by decide +kernel⟩⟩

/-- A step of each kind that changes STATE: issue of TAIL, error entry, and the way out of ERROR. -/
theorem test_witness_StateTransitions :
    (∃ t, (core1000 .full false [wr1000 0 0x3#32]).Inv ∧ step (core1000 .full false [wr1000 0 0x3#32]) = .next t ∧
      t.engine ≠ .full) ∧
    (∃ t, (core1000 .idle false [wr1000 0 0x2#32]).Inv ∧ step (core1000 .idle false [wr1000 0 0x2#32]) = .next t ∧
      t.engine ≠ .idle) ∧
    (∃ t, (inError [wr1000 0 0x1#32]).Inv ∧ step (inError [wr1000 0 0x1#32]) = .next t ∧ t.engine ≠ .error) :=
  ⟨⟨_, core1000_full_inv _ _, rfl, by decide⟩, ⟨_, core1000_idle_inv _, rfl, by decide⟩,
    ⟨_, inError_inv _, rfl, by decide⟩⟩

/-- BUSY set by BLOCK; BUSY cleared by the BLOCK step. -/
theorem test_witness_BusyWriters :
    (∃ t, step (core1000 .full false [wr1000 0 0x2#32]) = .next t ∧
      (core1000 .full false [wr1000 0 0x2#32]).busy = false ∧ t.busy = true) ∧
    (∃ t, step (core1000 .full true [.sequencer]) = .next t ∧ (core1000 .full true [.sequencer]).busy = true ∧
      t.busy = false) := ⟨⟨_, rfl, rfl, rfl⟩, ⟨_, rfl, rfl, rfl⟩⟩

/-- PEND set by a write to M while BUSY; PEND cleared by the BLOCK step. -/
theorem test_witness_PendWriters :
    (∃ t, step (core1000 .full true [wr1000 0x07c 0x7#32]) = .next t ∧
      (core1000 .full true [wr1000 0x07c 0x7#32]).pend = false ∧ t.pend = true) ∧
    (∃ t, step { core1000 .full true [] with pend := true } = .next t ∧ t.pend = false) :=
  ⟨⟨_, rfl, rfl, rfl⟩, ⟨_, rfl, rfl⟩⟩

theorem test_witness_ResetEventSetsEveryRegister :
    (core1000 .tail true [.reset, rd1000 4]).events = .reset :: [rd1000 4] := by decide

theorem test_witness_BlkIsBigEndian : (2 ^ 512 - 1 : Nat) < 2 ^ 512 ∧ (0 : Nat) < 2 ^ 512 := by
  decide +kernel

/-- The longest tail: no zero bytes, a marker at byte 0; the empty one: all zeros before the marker. -/
theorem test_witness_PadLayout : (List.replicate 63 0xaa#8).length ≤ 63 ∧ ([] : List Byte).length ≤ 63 := by decide

theorem test_witness_PadIsInjective :
    [0x00#8].length ≤ 63 ∧ [0x00#8].length ≤ 63 ∧ pad [0x00#8] = pad [0x00#8] ∧ pad [0x00#8] ≠ pad [] := by decide +kernel

/-- Two Blocks that differ in byte 0 alone have the same tail operand even at `r = 63`. -/
theorem test_witness_TailBlockIgnoresOtherBytes :
    63 ≤ 63 ∧ (∀ i, 64 - 63 ≤ i → i < 64 → Block.byte (blk 0) i = Block.byte (blk (2 ^ 504)) i) ∧
      blk 0 ≠ blk (2 ^ 504) := by decide +kernel

theorem test_witness_LpsBySegments : 0 < 8 ∧ 7 < 8 := by decide

/-- The schedule in which the host and the sequencer take turns. -/
def alternating (j : Nat) : Agent := if j % 2 = 0 then .host else .sequencer

/-- An idle core that is DONE with an older hash, and a fair schedule. -/
theorem test_witness_HashMsgComputesHash :
    (core1000 .done false []).busy = false ∧ (core1000 .done false []).pend = false ∧ FairSchedule alternating := by
  refine ⟨rfl, rfl, fun a k => ?_⟩
  cases a
  · exact ⟨2 * k, by omega, by simp [alternating]⟩
  · exact ⟨2 * k + 1, by omega, by simp [alternating, Nat.add_mod]⟩

end Sys2Proof.Tests
end

section
/-!
S and P on Blocks (00_scope.md R5, R9; 41_spl.md R120, R121): each is injective on a finite type, hence bijective; and P
reads the 64 positions each once, so its bytes are the operand's in another order.
-/
namespace Sys2Proof.Machine

/-- PERM reaches every byte position. -/
theorem exists_permAt_eq (t : Tables) {i : Nat} (hi : i < 64) : ∃ j < 64, permAt t j = i := by
  obtain ⟨j, hj⟩ := (permAt_bijective t).surjective ⟨i, hi⟩
  exact ⟨j, j.isLt, congrArg Fin.val hj⟩

/-- The entries of PERM, in order, are a rearrangement of the byte positions. -/
theorem map_permAt_range_perm (t : Tables) : ((List.range 64).map (permAt t)).Perm (List.range 64) := by
  have h := (Equiv.Perm.map_finRange_perm (Equiv.ofBijective _ (permAt_bijective t))).map Fin.val
  rw [← List.map_coe_finRange_eq_range, List.map_map]
  rwa [List.map_map] at h

/-- S is invertible byte by byte, since SBOX is injective. -/
theorem substitute_bijective (t : Tables) : Function.Bijective (substitute t) := by
  refine Finite.injective_iff_bijective.mp fun a b h => Block.ext_bytes fun i hi => ?_
  apply (sboxAt_bijective t).injective
  rw [← byte_substitute t a i hi, ← byte_substitute t b i hi, h]

/-- P loses no byte of its operand: byte `PERM[j]` of `a` stands at position `j` of `P(a)`. -/
theorem permute_bijective (t : Tables) : Function.Bijective (permute t) := by
  refine Finite.injective_iff_bijective.mp fun a b h => Block.ext_bytes fun i hi => ?_
  obtain ⟨j, hj, rfl⟩ := exists_permAt_eq t hi
  rw [← byte_permute t a j hj, ← byte_permute t b j hj, h]

/-- The bytes of P(a) are the bytes of `a` read in the order of PERM. -/
theorem map_byte_permute (t : Tables) (a : Block) :
    (List.range 64).map (Block.byte (permute t a)) = ((List.range 64).map (permAt t)).map (Block.byte a) := by
  rw [List.map_map]
  exact List.map_congr_left fun i hi => byte_permute t a i (List.mem_range.mp hi)

/-- Settles O54: S and P are injective on the finite type of Blocks, and P(a) lists the bytes of `a` along PERM. -/
theorem substitutionAndPermutationAreBijective : Obligations.SubstitutionAndPermutationAreBijective := by
  intro t
  refine ⟨substitute_bijective t, permute_bijective t, fun a => ?_⟩
  rw [map_byte_permute]
  exact (map_permAt_range_perm t).map (Block.byte a)

end Sys2Proof.Machine
end

section
/-! The decoder on INIT's word and on encoded commands (30_encoding.md R81, R82), and a step at the host's CMD write. -/
namespace Sys2Proof.Machine

/-- INIT has one word (R81). -/
theorem eq_one_of_decode_init {v : Word} (h : decode v = .instr .init) : v = 0x00000001#32 := by
  unfold decode at h
  split at h
  · next hv =>
    obtain ⟨hop, hrest⟩ := hv
    rw [word_op_rest v, hop, hrest]
    rfl
  · split at h
    · cases h
    · split at h
      · split at h <;> cases h
      · cases h

/-- Every command's word decodes to that command (R80 to R82). -/
theorem decode_encode {i : Instr} (h : i.wellFormed = true) : decode (encode i) = .instr i := by
  cases i with
  | init => decide
  | block => decide
  | tail r =>
    obtain ⟨hop, hlen, hlow, hhigh⟩ := Laws.EncodedFields.tail r
    have hr : r.toNat ≤ maxTailLen := by simpa [Instr.wellFormed] using h
    simp [decode, hop, hlen, hlow, hhigh, Laws.opcodeOf, Laws.lenOf, hr]

/-- Issue of a command's word is the command's meaning (R160). -/
theorem State.issue_of_decode {v : Word} {i : Instr} (h : decode v = .instr i) (s : State) : s.issue v = exec i s := by
  simp only [State.issue, h]

/-- Settles O4: the write reaches offset 0x000, which issues the decoded command. -/
theorem stepRunsDecodedCommand : Obligations.StepRunsDecodedCommand := by
  intro s v rest i he hd
  calc step s = (s.withEvents rest).writeWindow 0x000 v := step_write (by decide) (by decide) he
    _ = (s.withEvents rest).issue v := rfl
    _ = exec i (s.withEvents rest) := State.issue_of_decode hd _

/-- Settles O5: the placed word is the encoded command, which decodes to it. -/
theorem placedCommandIsRunNext : Obligations.PlacedCommandIsRunNext := by
  intro s i hi
  have hw : BitVec.ofNat 32 ((encode i).toNat % 2 ^ 32) = encode i := by
    rw [Nat.mod_eq_of_lt (encode i).isLt, BitVec.ofNat_toNat, BitVec.setWidth_eq]
  have he : (s.withFetchWord 32 (encode i).toNat).events = s.cmdWrite (encode i) :: s.events := by
    simp only [State.withFetchWord, hw, State.withEvents_events]
  exact stepRunsDecodedCommand _ _ _ _ he (decode_encode hi)

end Sys2Proof.Machine
end

section
/-! The STATUS word (10_state.md R27). -/
namespace Sys2Proof.Machine

/-- The fields of several bits: dropping the fields below one leaves it at the low end of the joined word. -/
theorem State.statusWord_fields (s : State) :
    s.statusWord.extractLsb' 0 3 = s.engine.bits ∧ s.statusWord.extractLsb' 3 5 = 0#5 ∧
    s.statusWord.extractLsb' 12 4 = s.code.bits ∧ s.statusWord.extractLsb' 16 16 = 0#16 := by
  rw [State.statusWord]
  refine ⟨BitVec.extractLsb'_append_eq_right, ?_, ?_, ?_⟩
  · rw [BitVec.extractLsb'_append_eq_of_le (by decide)]
    exact BitVec.extractLsb'_append_eq_right
  · iterate 6 rw [BitVec.extractLsb'_append_eq_of_le (by decide)]
    exact BitVec.extractLsb'_append_eq_right
  · iterate 7 rw [BitVec.extractLsb'_append_eq_of_le (by decide)]
    exact BitVec.extractLsb'_eq_self

/-- The one-bit fields of STATUS. -/
theorem State.statusWord_flags (s : State) :
    s.statusWord.getLsbD 8 = s.busy ∧ s.statusWord.getLsbD 9 = s.err ∧
    s.statusWord.getLsbD 10 = s.dvalid ∧ s.statusWord.getLsbD 11 = s.pend := by
  simp only [State.statusWord, BitVec.getLsbD_append, BitVec.getLsbD_ofBool]
  exact ⟨rfl, rfl, rfl, rfl⟩

/-- Settles O18: offset 0x004 reads STATUS, whose ERR and DVALID are decodes of STATE. -/
theorem statusWordFields : Obligations.StatusWordFields := by
  intro s
  obtain ⟨hstate, hlow, hcode, hhigh⟩ := s.statusWord_fields
  obtain ⟨hbusy, herr, hdvalid, hpend⟩ := s.statusWord_flags
  exact ⟨hstate, hlow, hbusy, herr, hdvalid, hpend, hcode, hhigh⟩

end Sys2Proof.Machine
end

section
/-!
What `Complete()` and the sequencer's four steps leave in each register but H, N and SIGMA (45_commands.md R164, R167 to
R169; 60_exceptions.md R207).
-/
namespace Sys2Proof.Machine

section
variable (s : State)

@[simp] theorem State.complete_m : s.complete.m = s.m := by unfold State.complete; split <;> rfl
@[simp] theorem State.complete_engine : s.complete.engine = if s.pend then .error else s.engine := by
  unfold State.complete; split <;> rfl
@[simp] theorem State.complete_busy : s.complete.busy = s.busy := by unfold State.complete; split <;> rfl
@[simp] theorem State.complete_code : s.complete.code = if s.pend then .busyWrite else s.code := by
  unfold State.complete; split <;> rfl
@[simp] theorem State.complete_pend : s.complete.pend = false := by cases hp : s.pend <;> simp [State.complete, hp]
@[simp] theorem State.complete_tlen : s.complete.tlen = s.tlen := by unfold State.complete; split <;> rfl
@[simp] theorem State.complete_config : s.complete.config = s.config := by unfold State.complete; split <;> rfl
@[simp] theorem State.complete_events : s.complete.events = s.events := by unfold State.complete; split <;> rfl

@[simp] theorem State.blockStep_m : s.blockStep.m = s.m := State.complete_m _
@[simp] theorem State.blockStep_engine : s.blockStep.engine = if s.pend then .error else s.engine :=
  State.complete_engine _
@[simp] theorem State.blockStep_busy : s.blockStep.busy = false := State.complete_busy _
@[simp] theorem State.blockStep_code : s.blockStep.code = if s.pend then .busyWrite else s.code := State.complete_code _
@[simp] theorem State.blockStep_config : s.blockStep.config = s.config := State.complete_config _
@[simp] theorem State.blockStep_events : s.blockStep.events = s.events := State.complete_events _

@[simp] theorem State.tailStep_engine : s.tailStep.engine = .finlen := rfl
@[simp] theorem State.tailStep_busy : s.tailStep.busy = s.busy := rfl
@[simp] theorem State.tailStep_pend : s.tailStep.pend = s.pend := rfl

@[simp] theorem State.finlenStep_engine : s.finlenStep.engine = .finsum := rfl
@[simp] theorem State.finlenStep_busy : s.finlenStep.busy = s.busy := rfl
@[simp] theorem State.finlenStep_pend : s.finlenStep.pend = s.pend := rfl

@[simp] theorem State.finsumStep_m : s.finsumStep.m = s.m := State.complete_m _
@[simp] theorem State.finsumStep_engine : s.finsumStep.engine = if s.pend then .error else .done :=
  State.complete_engine _
@[simp] theorem State.finsumStep_busy : s.finsumStep.busy = false := State.complete_busy _
@[simp] theorem State.finsumStep_code : s.finsumStep.code = if s.pend then .busyWrite else s.code :=
  State.complete_code _
@[simp] theorem State.finsumStep_config : s.finsumStep.config = s.config := State.complete_config _
@[simp] theorem State.finsumStep_events : s.finsumStep.events = s.events := State.complete_events _

end

/-! ### What every step leaves unchanged -/

/-- No move touches TABLES or another parameter (R33). -/
theorem Moves.config_eq {u t : State} {e : Option Event} (h : Moves u e t) : t.config = u.config := by
  cases h with
  | blockStep => exact u.blockStep_config
  | finsumStep => exact u.finsumStep_config
  | _ => rfl

/-- The core does not write the host's schedule (R60). -/
theorem Moves.events_eq {u t : State} {e : Option Event} (h : Moves u e t) : t.events = u.events := by
  cases h with
  | blockStep => exact u.blockStep_events
  | finsumStep => exact u.finsumStep_events
  | _ => rfl

/-- Settles O39, from the same fact about each move. -/
theorem parametersNeverChange : Obligations.ParametersNeverChange := fun _ _ h => (step_moves h).config_eq

/-- A step consumes the head event and keeps the others (R60). -/
theorem step_events {s t : State} (h : step s = .next t) : t.events = s.events.tail := (step_moves h).events_eq

end Sys2Proof.Machine
end

section
/-!
The invariants of R36 and the bound of TLEN (R32): what they say of a resting and of a busy core, and that each update a
move makes keeps them.
-/
namespace Sys2Proof.Machine

/-! ### Consequences -/

section
variable {s : State} (h : s.Inv)
include h

theorem State.Inv.code_eq_none (hs : s.engine ≠ .error) : s.code = .none := by
  by_contra hc
  exact hs (h.code_error.mp hc)

theorem State.Inv.engine_ne_error (hb : s.busy = true) : s.engine ≠ .error := by
  intro hs
  have hm := h.busy_engine hb
  rw [hs] at hm
  cases hm

/-- A core with BUSY = 0 rests in IDLE, FULL, DONE or ERROR (R36). -/
theorem State.Inv.engine_mem_of_idle (hb : s.busy = false) (hs : s.engine ≠ .error) :
    s.engine ∈ [EngineState.idle, .full, .done] := by
  have hm : ¬ s.engine.mustBeBusy = true := fun hm => by simp [h.engine_busy hm] at hb
  cases he : s.engine with
  | idle => simp
  | full => simp
  | done => simp
  | error => exact absurd he hs
  | _ => exact absurd (by rw [he]; rfl) hm

end

/-! ### Updates -/

/-- The invariants speak of STATE, BUSY, CODE, PEND and TLEN alone. -/
theorem State.Inv.congr {s t : State} (h : s.Inv) (he : t.engine = s.engine) (hb : t.busy = s.busy)
    (hc : t.code = s.code) (hp : t.pend = s.pend) (hl : t.tlen = s.tlen) : t.Inv where
  busy_engine := by rw [hb, he]; exact h.busy_engine
  engine_busy := by rw [hb, he]; exact h.engine_busy
  pend_busy := by rw [hb, hp]; exact h.pend_busy
  code_error := by rw [hc, he]; exact h.code_error
  tlen_le := by rw [hl]; exact h.tlen_le

theorem State.resetWith_inv (c : Config) : (State.resetWith c).Inv where
  busy_engine := nofun
  engine_busy := nofun
  pend_busy := nofun
  code_error := iff_of_false (· rfl) nofun
  tlen_le := Nat.zero_le _

theorem State.applyReset_inv (s : State) : s.applyReset.Inv :=
  (State.resetWith_inv s.config).congr rfl rfl rfl rfl rfl

/-- `Complete()` ends a command that has gone to rest, in ERROR or where it was going (R207). -/
theorem State.complete_inv {s : State} (hb : s.busy = false) (hm : s.engine.mustBeBusy = false)
    (hs : s.engine ≠ .error) (hc : s.code = .none) (hl : s.tlen.toNat ≤ maxTailLen) : s.complete.Inv where
  busy_engine := by simp [hb]
  engine_busy := by
    cases hp : s.pend
    · simp [hp, hm]
    · simp [hp, EngineState.mustBeBusy]
  pend_busy := by simp
  code_error := by cases hp : s.pend <;> simp [hp, hs, hc]
  tlen_le := by simpa using hl

section
variable {s : State} (h : s.Inv)
include h

theorem State.Inv.withEvents (evs : List Event) : (s.withEvents evs).Inv := h.congr rfl rfl rfl rfl rfl

theorem State.Inv.logRead (v : Word) : (s.logRead v).Inv := h.congr rfl rfl rfl rfl rfl

theorem State.Inv.setM (b : Block) : (s.setM b).Inv := h.congr rfl rfl rfl rfl rfl

theorem State.Inv.discardWrite (hb : s.busy = true) : s.discardWrite.Inv where
  busy_engine := h.busy_engine
  engine_busy := h.engine_busy
  pend_busy := fun _ => hb
  code_error := h.code_error
  tlen_le := h.tlen_le

theorem State.Inv.startHash : s.startHash.Inv where
  busy_engine := fun _ => rfl
  engine_busy := nofun
  pend_busy := h.pend_busy
  code_error := iff_of_false (· rfl) nofun
  tlen_le := h.tlen_le

theorem State.Inv.enterError (hb : s.busy = false) {c : ErrorCode} (hc : c ≠ .none) : (s.enterError c).Inv where
  busy_engine := by simp [hb]
  engine_busy := nofun
  pend_busy := h.pend_busy
  code_error := iff_of_true hc rfl
  tlen_le := h.tlen_le

theorem State.Inv.beginBlock (hf : s.engine = .full) : s.beginBlock.Inv where
  busy_engine := fun _ => by rw [State.beginBlock_engine, hf]; rfl
  engine_busy := fun _ => rfl
  pend_busy := fun _ => rfl
  code_error := h.code_error
  tlen_le := h.tlen_le

theorem State.Inv.beginTail (hs : s.engine ≠ .error) {r : Len} (hr : r.toNat ≤ maxTailLen) : (s.beginTail r).Inv where
  busy_engine := fun _ => rfl
  engine_busy := fun _ => rfl
  pend_busy := fun _ => rfl
  code_error := iff_of_false (· (h.code_eq_none hs)) nofun
  tlen_le := hr

/-- A sequencer step that goes on to the next busy STATE (R167, R168). -/
theorem State.Inv.commit_moveTo (hb : s.busy = true) (c : HashState) {e : EngineState} (he : e.mayBeBusy = true) :
    ((s.commit c).moveTo e).Inv where
  busy_engine := fun _ => he
  engine_busy := fun _ => hb
  pend_busy := h.pend_busy
  code_error := iff_of_false (· (h.code_eq_none (h.engine_ne_error hb))) (by rintro rfl; cases he)
  tlen_le := h.tlen_le

theorem State.Inv.blockStep (hb : s.busy = true) (hf : s.engine = .full) : s.blockStep.Inv :=
  State.complete_inv rfl (by simp [hf, EngineState.mustBeBusy]) (h.engine_ne_error hb)
    (h.code_eq_none (h.engine_ne_error hb)) h.tlen_le

theorem State.Inv.finsumStep (hb : s.busy = true) : s.finsumStep.Inv :=
  State.complete_inv rfl rfl nofun (h.code_eq_none (h.engine_ne_error hb)) h.tlen_le

end

/-- Every move keeps the invariants (R36). -/
theorem Moves.inv {u t : State} {e : Option Event} (hm : Moves u e t) (h : u.Inv) : t.Inv := by
  cases hm with
  | noTurn => exact h
  | blockStep _ hb hs => exact h.blockStep hb hs
  | tailStep _ hb => exact h.commit_moveTo hb _ rfl
  | finlenStep _ hb => exact h.commit_moveTo hb _ rfl
  | finsumStep _ hb => exact h.finsumStep hb
  | read => exact h.logRead _
  | discarded _ _ hb => exact h.discardWrite hb
  | init => exact h.startHash
  | ignoredInError => exact h
  | illegal _ hb => exact h.enterError hb nofun
  | badLen _ hb => exact h.enterError hb nofun
  | outOfSequence _ hb => exact h.enterError hb nofun
  | block _ _ hf => exact h.beginBlock hf
  | tail _ _ hf _ hr => exact h.beginTail (by simp [hf]) hr
  | setM => exact h.setM _
  | ignoredWrite => exact h
  | reset => exact u.applyReset_inv

/-- Settles O36, by the inversion of a step and the invariants kept by each move. -/
theorem stepKeepsInvariant : Obligations.StepKeepsInvariant := fun s _ h hs =>
  (step_moves hs).inv (h.withEvents s.events.tail)

/-- Settles O37: reset is the case of the reference parameters. -/
theorem invariantHoldsAtReset : Obligations.InvariantHoldsAtReset :=
  ⟨State.resetWith_inv referenceConfig, State.resetWith_inv⟩

end Sys2Proof.Machine
end

section
/-!
Progress: each kind of event answers a next state, given the invariants at a sequencer turn and an accepted access at the
port (10_state.md R36; 20_memory.md R57).
-/
namespace Sys2Proof.Machine

/-- No command stops the machine (R160). -/
theorem exists_exec_next (i : Instr) (s : State) : ∃ t, exec i s = .next t := by
  cases i with
  | init => exact ⟨_, rfl⟩
  | block => exact ⟨_, rfl⟩
  | tail r => exact ⟨_, rfl⟩

theorem State.exists_issue_next (s : State) (v : Word) : ∃ t, s.issue v = .next t := by
  unfold State.issue
  split
  · exact exists_exec_next _ s
  · exact ⟨_, rfl⟩
  · exact ⟨_, rfl⟩

theorem State.exists_writeWindow_next (s : State) (off : Nat) (v : Word) : ∃ t, s.writeWindow off v = .next t := by
  unfold State.writeWindow
  split
  · exact s.exists_issue_next v
  · split
    · exact ⟨_, rfl⟩
    · exact ⟨_, rfl⟩

/-- The sequencer is never stuck: BUSY is 1 only in the four states that have a step (R36, R162). -/
theorem State.Inv.exists_sequencerTurn_next {s : State} (h : s.Inv) : ∃ t, s.sequencerTurn = .next t := by
  unfold State.sequencerTurn
  split
  · next hb =>
    have hm := h.busy_engine hb
    cases hs : s.engine with
    | full => exact ⟨_, rfl⟩
    | tail => exact ⟨_, rfl⟩
    | finlen => exact ⟨_, rfl⟩
    | finsum => exact ⟨_, rfl⟩
    | idle => rw [hs] at hm; cases hm
    | done => rw [hs] at hm; cases hm
    | error => rw [hs] at hm; cases hm
  · exact ⟨s, rfl⟩

/-- Which accesses the window takes depends on CORE_BASE alone (R50, R57). -/
theorem State.accepts_congr {s t : State} (h : t.config = s.config) (e : Event) : t.accepts e = s.accepts e := by
  have hw := State.windowOffset_congr (congrArg Config.coreBase h)
  cases e with
  | read addr bytes => simp only [State.accepts, hw]
  | write addr bytes v => simp only [State.accepts, hw]
  | reset => rfl
  | sequencer => rfl

theorem State.exists_windowOffset_ok {s : State} {addr bytes : Nat} (h : (s.windowOffset addr bytes).isOk = true) :
    ∃ off, s.windowOffset addr bytes = .ok off := by
  cases ho : s.windowOffset addr bytes with
  | ok off => exact ⟨off, rfl⟩
  | error f => rw [ho] at h; cases h

theorem State.Inv.exists_handle_next {s : State} (h : s.Inv) {e : Event} (ha : s.accepts e = true) :
    ∃ t, s.handle e = .next t := by
  cases e with
  | read addr bytes =>
    obtain ⟨off, ho⟩ := State.exists_windowOffset_ok ha
    simp only [State.handle, ho]
    exact ⟨_, rfl⟩
  | write addr bytes v =>
    obtain ⟨off, ho⟩ := State.exists_windowOffset_ok ha
    simp only [State.handle, ho]
    exact s.exists_writeWindow_next off v
  | reset => exact ⟨_, rfl⟩
  | sequencer => exact h.exists_sequencerTurn_next

theorem State.Inv.exists_step_next {s : State} (h : s.Inv) (ha : s.accessesLegal) : ∃ t, step s = .next t := by
  cases he : s.events with
  | nil => rw [step_nil he]; exact h.exists_sequencerTurn_next
  | cons e rest =>
    have hacc : (s.withEvents rest).accepts e = true := ha e (by simp [he])
    rw [step_cons he]
    exact (h.withEvents rest).exists_handle_next hacc

/-- The events left after a step are accepted if those before it were. -/
theorem step_accessesLegal {s t : State} (hs : step s = .next t) (ha : s.accessesLegal) : t.accessesLegal := by
  intro e he
  rw [step_events hs] at he
  rw [State.accepts_congr (parametersNeverChange s t hs)]
  exact ha e (List.mem_of_mem_tail he)

/-- Settles O38: progress, and what a step keeps. -/
theorem legalRunsNeverStop : Obligations.LegalRunsNeverStop := by
  intro s h ha
  obtain ⟨t, hs⟩ := h.exists_step_next ha
  exact ⟨t, hs, stepKeepsInvariant s t h hs, step_accessesLegal hs ha⟩

end Sys2Proof.Machine
end

section
/-!
Who writes each register: the moves that change H, N and SIGMA (10_state.md R37), M (R25), STATE (R28), BUSY (R29) and
PEND (R31).
-/
namespace Sys2Proof.Machine

/-- The head of a schedule lets the sequencer move. -/
theorem sequencerEvent_head? {evs : List Event} :
    SequencerEvent evs.head? ↔ evs = [] ∨ evs.head? = some .sequencer := by
  rw [SequencerEvent, List.head?_eq_none_iff]

section
variable {u t : State} {e : Option Event} (h : Moves u e t)
include h

theorem Moves.chain_eq_or : t.chain = u.chain ∨ (u.busy = true ∧ SequencerEvent e) ∨
    (u.busy = false ∧ e = some (u.cmdWrite 0x00000001#32)) ∨ e = some .reset := by
  cases h with
  | blockStep he hb => exact .inr (.inl ⟨hb, he⟩)
  | tailStep he hb => exact .inr (.inl ⟨hb, he⟩)
  | finlenStep he hb => exact .inr (.inl ⟨hb, he⟩)
  | finsumStep he hb => exact .inr (.inl ⟨hb, he⟩)
  | init ho hb hd =>
    rw [write_eq_cmdWrite ho, eq_one_of_decode_init hd]
    exact .inr (.inr (.inl ⟨hb, rfl⟩))
  | reset => exact .inr (.inr (.inr rfl))
  | _ => exact .inl rfl

theorem Moves.m_eq_or : t.m = u.m ∨
    (u.busy = false ∧ ∃ j v, j < 16 ∧ e = some (.write (u.config.coreBase + (0x040 + 4 * j)) 4 v)) ∨
    e = some .reset := by
  cases h with
  | @setM addr bytes v off ho hr hb =>
    obtain ⟨rfl, rfl, -, halign⟩ := State.windowOffset_ok.mp ho
    have hoff : 0x040 + 4 * ((off - 0x040) / 4) = off := by omega
    exact .inr (.inl ⟨hb, (off - 0x040) / 4, v, by omega, by rw [hoff]⟩)
  | blockStep => exact .inl u.blockStep_m
  | finsumStep => exact .inl u.finsumStep_m
  | reset => exact .inr (.inr rfl)
  | _ => exact .inl rfl

theorem Moves.of_sets_busy (h0 : u.busy = false) (h1 : t.busy = true) :
    u.engine = .full ∧ ∃ v, e = some (u.cmdWrite v) ∧
      (decode v = .instr .block ∨ ∃ r, decode v = .instr (.tail r)) := by
  cases h with
  | @block _ _ v ho _ hf hd => exact ⟨hf, v, congrArg some (write_eq_cmdWrite ho), .inl hd⟩
  | @tail _ _ v r ho _ hf hd => exact ⟨hf, v, congrArg some (write_eq_cmdWrite ho), .inr ⟨r, hd⟩⟩
  | _ => simp [h0] at h1

theorem Moves.of_clears_busy (h1 : u.busy = true) (h0 : t.busy = false) :
    e = some .reset ∨ (SequencerEvent e ∧ (u.engine = .full ∨ u.engine = .finsum)) := by
  cases h with
  | blockStep he _ hs => exact .inr ⟨he, .inl hs⟩
  | finsumStep he _ hs => exact .inr ⟨he, .inr hs⟩
  | reset => exact .inl rfl
  | _ => simp [h1] at h0

theorem Moves.of_sets_pend (h0 : u.pend = false) (h1 : t.pend = true) :
    u.busy = true ∧ ∃ off v, (off = 0x000 ∨ (0x040 ≤ off ∧ off ≤ 0x07C)) ∧
      e = some (.write (u.config.coreBase + off) 4 v) := by
  cases h with
  | @discarded _ _ v off ho hr hb =>
    obtain ⟨rfl, rfl, -, -⟩ := State.windowOffset_ok.mp ho
    exact ⟨hb, off, v, hr, rfl⟩
  | blockStep => cases (State.complete_pend _).symm.trans h1
  | finsumStep => cases (State.complete_pend _).symm.trans h1
  | _ => simp [h0] at h1

theorem Moves.of_clears_pend (h1 : u.pend = true) (h0 : t.pend = false) :
    e = some .reset ∨ ((u.engine = .full ∨ u.engine = .finsum) ∧ u.busy = true ∧ t.busy = false ∧
      t.engine = .error ∧ t.code = .busyWrite) := by
  cases h with
  | blockStep _ hb hs => exact .inr ⟨.inl hs, hb, by simp [h1]⟩
  | finsumStep _ hb hs => exact .inr ⟨.inr hs, hb, by simp [h1]⟩
  | reset => exact .inl rfl
  | _ => simp [h1] at h0

end

/-- Settles O41: outside the three named cases the move keeps all three accumulators. -/
theorem accumulatorWriters : Obligations.AccumulatorWriters := by
  intro s t hs hne
  rcases (step_moves hs).chain_eq_or with hc | ⟨hb, he⟩ | hinit | hreset
  · obtain ⟨hh, hn, hsigma⟩ : t.h = s.h ∧ t.n = s.n ∧ t.sigma = s.sigma := by simpa using hc
    simp [hh, hn, hsigma] at hne
  · exact .inl ⟨hb, sequencerEvent_head?.mp he⟩
  · exact .inr (.inl hinit)
  · exact .inr (.inr hreset)

/-- Settles O42, from the moves that keep M. -/
theorem messageWriters : Obligations.MessageWriters := fun _ _ hs hne =>
  (step_moves hs).m_eq_or.resolve_left hne

/-- Settles O44: the moves that set BUSY, and those that clear it. -/
theorem busyWriters : Obligations.BusyWriters := by
  intro s t hs
  have hm := step_moves hs
  exact ⟨hm.of_sets_busy, fun h1 h0 => (hm.of_clears_busy h1 h0).imp_right (And.imp_left sequencerEvent_head?.mp)⟩

/-- Settles O45: the moves that set PEND, and those that clear it. -/
theorem pendWriters : Obligations.PendWriters := fun _ _ hs =>
  ⟨(step_moves hs).of_sets_pend, (step_moves hs).of_clears_pend⟩

/-- Settles O43: the moves that write STATE, each an arc of the table of R28. The two last steps of a command end in ERROR
when PEND is set (R207). -/
theorem stateTransitions : Obligations.StateTransitions := by
  intro s t hinv hstep hne
  have hm := step_moves hstep
  have hrest (hb : s.busy = false) (hs : s.engine ≠ .error) : s.engine ∈ [EngineState.idle, .full, .done, .finsum] :=
    List.mem_append_left [EngineState.finsum] (hinv.engine_mem_of_idle hb hs)
  clear hstep
  generalize s.events.head? = e at hm ⊢
  cases hm with
  | init ho hb hd =>
    rw [write_eq_cmdWrite ho, eq_one_of_decode_init hd]
    exact .inl ⟨rfl, hb, rfl⟩
  | tail _ hb hf => exact .inr (.inl ⟨hf, rfl, hb, rfl⟩)
  | tailStep _ hb hs => exact .inr (.inr (.inl ⟨hs, State.tailStep_engine _, hb⟩))
  | finlenStep _ hb hs => exact .inr (.inr (.inr (.inl ⟨hs, State.finlenStep_engine _, hb⟩)))
  | finsumStep _ _ hs =>
    simp only [State.withEvents_engine] at hs
    cases hp : s.pend with
    | false => exact .inr (.inr (.inr (.inr (.inl (by simp [hs, hp])))))
    | true => exact .inr (.inr (.inr (.inr (.inr (.inl (by simp [hs, hp]))))))
  | blockStep _ _ hs =>
    simp only [State.withEvents_engine] at hs
    cases hp : s.pend with
    | false => simp [hp] at hne
    | true => exact .inr (.inr (.inr (.inr (.inr (.inl (by simp [hs, hp]))))))
  | illegal _ hb hs => exact .inr (.inr (.inr (.inr (.inr (.inl ⟨hrest hb hs, rfl, hb, nofun⟩)))))
  | badLen _ hb hs => exact .inr (.inr (.inr (.inr (.inr (.inl ⟨hrest hb hs, rfl, hb, nofun⟩)))))
  | outOfSequence _ hb hs => exact .inr (.inr (.inr (.inr (.inr (.inl ⟨hrest hb hs, rfl, hb, nofun⟩)))))
  | reset => exact .inr (.inr (.inr (.inr (.inr (.inr ⟨rfl, rfl⟩)))))
  | _ => exact absurd rfl hne

end Sys2Proof.Machine
end

section
/-!
Joined bit vectors as the OR of their shifted fields: the sixteen words of a Block (20_memory.md R52), the four bytes of a word and
the fields of STATUS (10_state.md R27).
-/
namespace Sys2Proof.Machine

/-- Widening a joined vector shifts its high part past its low part. -/
theorem setWidth_append_eq_shiftLeft_or {n k w : Nat} (x : BitVec n) (y : BitVec k) :
    (x ++ y).setWidth w = (x.setWidth w <<< k) ||| y.setWidth w := by
  apply BitVec.eq_of_getLsbD_eq
  intro p hp
  have hp' : p - k < w := by omega
  simp only [BitVec.getLsbD_or, BitVec.getLsbD_shiftLeft, BitVec.getLsbD_setWidth, BitVec.getLsbD_append, hp, hp',
    decide_true, Bool.true_and]
  by_cases hk : p < k
  · simp [hk]
  · simp [hk, BitVec.getLsbD_of_ge y p (by omega)]

/-- Word `j` as the OR of its four shifted bytes (R52). -/
theorem Block.word_eq_shifts (b : Block) (j : Nat) :
    Block.word b j = ((Block.byte b (4 * j)).setWidth 32 <<< 24) ||| ((Block.byte b (4 * j + 1)).setWidth 32 <<< 16) |||
      ((Block.byte b (4 * j + 2)).setWidth 32 <<< 8) ||| (Block.byte b (4 * j + 3)).setWidth 32 := by
  rw [← BitVec.setWidth_eq (Block.word b j), Block.word]
  simp only [setWidth_append_eq_shiftLeft_or, BitVec.shiftLeft_or_distrib, ← BitVec.shiftLeft_add]

/-- STATUS as the OR of its shifted fields (R27). -/
theorem State.statusWord_eq_shifts (s : State) :
    s.statusWord = (s.code.bits.setWidth 32 <<< 12) ||| ((BitVec.ofBool s.pend).setWidth 32 <<< 11) |||
      ((BitVec.ofBool s.dvalid).setWidth 32 <<< 10) ||| ((BitVec.ofBool s.err).setWidth 32 <<< 9) |||
      ((BitVec.ofBool s.busy).setWidth 32 <<< 8) ||| s.engine.bits.setWidth 32 := by
  rw [← BitVec.setWidth_eq s.statusWord, State.statusWord]
  simp only [setWidth_append_eq_shiftLeft_or, BitVec.shiftLeft_or_distrib, ← BitVec.shiftLeft_add, BitVec.setWidth_zero,
    BitVec.zero_shiftLeft, BitVec.zero_or, BitVec.or_zero]

/-- The first `k` words of a Block, joined, are its `32 * k` most significant bits (R52). -/
theorem readBlock_map_word_range (b : Block) {k : Nat} (hk : k ≤ 16) :
    readBlock ((List.range k).map (Block.word b)).reverse = b >>> (32 * (16 - k)) := by
  induction k with
  | zero => exact (BitVec.ushiftRight_eq_zero (by decide)).symm
  | succ k ih =>
    have hsplit : ((List.range (k + 1)).map (Block.word b)).reverse =
        Block.word b k :: ((List.range k).map (Block.word b)).reverse := by
      rw [List.range_succ, List.map_append, List.reverse_append]; rfl
    rw [hsplit, readBlock, ih (by omega)]
    apply BitVec.eq_of_getLsbD_eq
    intro p hp
    simp only [BitVec.getLsbD_or, BitVec.getLsbD_shiftLeft, BitVec.getLsbD_setWidth, BitVec.getLsbD_ushiftRight, hp,
      decide_true, Bool.true_and]
    by_cases hlow : p < 32
    · have hbit : 32 * (16 - (k + 1)) + p = 32 * (15 - k) + p := by omega
      rw [Block.word_getLsbD b k p (by omega) hlow, hbit]
      simp [hlow]
    · have hbit : 32 * (16 - (k + 1)) + p = 32 * (16 - k) + (p - 32) := by omega
      rw [BitVec.getLsbD_of_ge (Block.word b k) p (by omega), hbit]
      simp [hlow]

/-- Settles O24: all sixteen words are all 512 bits. -/
theorem wordsJoinToTheBlock : Obligations.WordsJoinToTheBlock := fun b =>
  (readBlock_map_word_range b (Nat.le_refl 16)).trans (BitVec.ushiftRight_zero b)

end Sys2Proof.Machine
end

section
/-!
One host access of the register window: what a read returns (20_memory.md R55), what a write changes (R53, R56), and which
accesses stop (R50, R57); and the sequencer's turn (R60).
-/
namespace Sys2Proof.Machine

/-! ### Reads -/

/-- The offsets between STATUS and M and those past SIGMA are reserved and read as zero (R51, R55). -/
theorem State.readWindow_reserved (s : State) {off : Nat} (h : (0x008 ≤ off ∧ off ≤ 0x03C) ∨ 0x140 ≤ off) :
    s.readWindow off = 0#32 := by
  unfold State.readWindow
  iterate 6 rw [if_neg (by omega)]

/-- Settles O19: the read hands over the window's word, which each range of the register map gives. -/
theorem readsFollowTheRegisterMap : Obligations.ReadsFollowTheRegisterMap := by
  intro s off rest hoff halign he
  refine ⟨s.readWindow off, step_read hoff halign he, ?cmd, ?status, ?block, s.readWindow_reserved⟩
  case cmd => rintro rfl; rfl
  case status => rintro rfl; exact s.statusWord_eq_shifts
  case block =>
    rintro base b hb j hj rfl
    rw [← Block.word_eq_shifts]
    rcases hb with ⟨rfl, rfl⟩ | ⟨rfl, rfl⟩ | ⟨rfl, rfl⟩ | ⟨rfl, rfl⟩
    · exact s.readWindow_m hj
    · exact s.readWindow_h hj
    · exact s.readWindow_n hj
    · exact s.readWindow_sigma hj

/-! ### Writes -/

/-- A write at 0x040 + 4j is a write of word `j` of M (R51, R56). -/
theorem State.writeWindow_m (s : State) {j : Nat} (hj : j < 16) (v : Word) :
    s.writeWindow (0x040 + 4 * j) v = .next (s.writeM j v) := by
  have hword : (0x040 + 4 * j - 0x040) / 4 = j := by omega
  unfold State.writeWindow
  rw [if_neg (by omega), if_pos (by omega), hword]

/-- A write elsewhere than CMD and M is ignored (R51, R56). -/
theorem State.writeWindow_ignored (s : State) {off : Nat} (h0 : off ≠ 0x000) (hm : off < 0x040 ∨ 0x07C < off)
    (v : Word) : s.writeWindow off v = .next s := by
  unfold State.writeWindow
  rw [if_neg h0, if_neg (by omega)]

/-- Byte `u` of the written word, counted from the top, lands in byte `4j + u` (R53). -/
theorem Block.byte_setWord_same (b : Block) {j u : Nat} (hj : j < 16) (hu : u < 4) (v : Word) :
    Block.byte (Block.setWord b j v) (4 * j + u) = v.extractLsb' (8 * (3 - u)) 8 := by
  have hquot : (4 * j + u) / 4 = j := by omega
  have hrem : (4 * j + u) % 4 = u := by omega
  rw [Block.byte_setWord _ _ _ _ (by omega), if_pos hquot, hrem]

/-- With BUSY = 0 a write to M sets the word (R53). -/
theorem State.writeM_of_not_busy (s : State) (h : s.busy = false) (j : Nat) (v : Word) :
    s.writeM j v = s.setM (Block.setWord s.m j v) := by simp [State.writeM, h]

/-- With BUSY = 1 a write to M is discarded (R206). -/
theorem State.writeM_of_busy (s : State) (h : s.busy = true) (j : Nat) (v : Word) : s.writeM j v = s.discardWrite := by
  simp [State.writeM, h]

/-- Settles O20: the new M is M with word `j` set, whose bytes the three facts about a set word give. -/
theorem messageWordWrite : Obligations.MessageWordWrite := by
  intro s j v rest hj he
  have hstep : step s = .next ((s.withEvents rest).writeM j v) := by
    rw [step_write (by omega) (by omega) he, State.writeWindow_m _ hj]
  have hbyte (u : Nat) (hu : u < 4) := Block.byte_setWord_same s.m hj hu v
  constructor
  · intro hidle
    refine ⟨Block.setWord s.m j v, ?next, hbyte 0 (by decide), hbyte 1 (by decide), hbyte 2 (by decide),
      hbyte 3 (by decide), ?others, ?readback⟩
    case next =>
      rw [hstep, (s.withEvents rest).writeM_of_not_busy hidle]
      rfl
    case others =>
      intro k hk hne
      rw [Block.byte_setWord _ _ _ _ hk, if_neg hne]
    case readback => rw [State.readWindow_m _ hj, Block.word_setWord _ _ _ _ hj, if_pos rfl]
  · intro hbusy
    rw [hstep, (s.withEvents rest).writeM_of_busy hbusy]
    rfl

/-- Settles O21: the write reaches an offset that ignores it. -/
theorem writesElsewhereAreIgnored : Obligations.WritesElsewhereAreIgnored := by
  intro s off v rest hoff halign h0 hm he
  rw [step_write hoff halign he, State.writeWindow_ignored _ h0 hm]
  rfl

/-! ### Accesses that stop -/

/-- The window refuses an access of another width or alignment (R57). -/
theorem State.windowOffset_accessFault (s : State) {off bytes : Nat} (h : off < windowBytes)
    (hbad : bytes ≠ 4 ∨ off % 4 ≠ 0) : s.windowOffset (s.config.coreBase + off) bytes = .error .accessFault := by
  unfold State.windowOffset
  rw [if_pos (by omega), Nat.add_sub_cancel_left, if_neg (by omega)]

/-- An address below or past the window is not the core's (R50). -/
theorem State.windowOffset_outsideWindow (s : State) {addr : Nat} (bytes : Nat)
    (h : addr < s.config.coreBase ∨ s.config.coreBase + windowBytes ≤ addr) :
    s.windowOffset addr bytes = .error .outsideWindow := by
  unfold State.windowOffset
  rw [if_neg (by omega)]

/-- An access that reaches no offset stops the machine, for a read and for a write alike (R57). -/
theorem step_fault {s : State} {addr bytes : Nat} {v : Word} {rest : List Event} {f : Fault}
    (hw : s.windowOffset addr bytes = .error f)
    (he : s.events = .read addr bytes :: rest ∨ s.events = .write addr bytes v :: rest) : step s = .fault f := by
  have hw' : (s.withEvents rest).windowOffset addr bytes = .error f := hw
  rcases he with he | he
  · rw [step_cons he]; simp only [State.handle, hw']
  · rw [step_cons he]; simp only [State.handle, hw']

/-- Settles O22: the window refuses the access, which stops the step. -/
theorem badAccessIsAccessFault : Obligations.BadAccessIsAccessFault := fun s _ _ _ _ hoff hbad he =>
  step_fault (s.windowOffset_accessFault hoff hbad) he

/-- Settles O23: no offset of the window is reached, which stops the step. -/
theorem accessOutsideTheWindowStops : Obligations.AccessOutsideTheWindowStops := fun s _ bytes _ _ hout he =>
  step_fault (s.windowOffset_outsideWindow bytes hout) he

/-! ### The sequencer's turn -/

/-- Settles O6: the empty schedule, and a schedule whose head is the sequencer's turn. -/
theorem sequencerMovesWhenScheduled : Obligations.SequencerMovesWhenScheduled := fun _ =>
  ⟨step_nil, fun _ he => step_cons he⟩

end Sys2Proof.Machine
end

section
/-!
The decoder inverts the encoder (30_encoding.md R80 to R82): a word decodes to a command exactly when it is that command's word
with a legal LEN, to BADLEN exactly when it is TAIL's with LEN above 63, and every other word is ILLEGAL.
-/
namespace Sys2Proof.Machine

/-- Settles O1. -/
theorem decodeOfEncode : Obligations.DecodeOfEncode := fun _ => decode_encode

/-- TAIL's word in the form of R81. -/
theorem encode_tail_eq_or (r : Len) : encode (.tail r) = 0x00000003#32 ||| (r.setWidth 32 <<< 8) := by
  rw [← BitVec.setWidth_eq (encode (.tail r)), encode]
  simp only [setWidth_append_eq_shiftLeft_or, ← BitVec.shiftLeft_add, BitVec.setWidth_zero, BitVec.zero_shiftLeft,
    BitVec.zero_or, BitVec.or_zero]
  exact BitVec.or_comm _ _

/-- TAIL with LEN in 64 .. 127 is BADLEN (R82). -/
theorem decode_encode_tail_of_gt {r : Len} (h : maxTailLen < r.toNat) : decode (encode (.tail r)) = .badLen r := by
  obtain ⟨hop, hlen, hlow, hhigh⟩ := Laws.EncodedFields.tail r
  simp [decode, hop, hlen, hlow, hhigh, Laws.opcodeOf, Laws.lenOf, h]

/-- Everything the decoder can answer, and for which words (R82). -/
theorem decode_cases (v : Word) :
    (∃ i, i.wellFormed = true ∧ v = encode i ∧ decode v = .instr i) ∨
    (∃ r, maxTailLen < r.toNat ∧ v = encode (.tail r) ∧ decode v = .badLen r) ∨ decode v = .illegal := by
  unfold decode
  split
  · next hinit =>
    obtain ⟨hop, hrest⟩ := hinit
    exact .inl ⟨.init, rfl, by rw [word_op_rest v, hop, hrest]; rfl, rfl⟩
  · split
    · next hblock =>
      obtain ⟨hop, hrest⟩ := hblock
      exact .inl ⟨.block, rfl, by rw [word_op_rest v, hop, hrest]; rfl, rfl⟩
    · split
      · next htail =>
        obtain ⟨hop, hhigh, hlow⟩ := htail
        have hv : v = encode (.tail (lenField v)) := by
          have hfields := word_fields v
          rwa [hop, hhigh, hlow] at hfields
        split
        · next hle => exact .inl ⟨.tail (lenField v), decide_eq_true hle, hv, rfl⟩
        · next hgt => exact .inr (.inl ⟨lenField v, Nat.lt_of_not_le hgt, hv, rfl⟩)
      · exact .inr (.inr rfl)

/-- Which word decodes to each command (R81, R82). -/
theorem decode_eq_instr_iff {v : Word} {i : Instr} : decode v = .instr i ↔ i.wellFormed = true ∧ v = encode i := by
  constructor
  · intro hd
    rcases decode_cases v with ⟨j, hj, hv, hdj⟩ | ⟨r, -, -, hdr⟩ | hill
    · cases hdj.symm.trans hd
      exact ⟨hj, hv⟩
    · cases hdr.symm.trans hd
    · cases hill.symm.trans hd
  · rintro ⟨hi, rfl⟩
    exact decode_encode hi

/-- Which word decodes to each BADLEN (R82). -/
theorem decode_eq_badLen_iff {v : Word} {r : Len} :
    decode v = .badLen r ↔ maxTailLen < r.toNat ∧ v = encode (.tail r) := by
  constructor
  · intro hd
    rcases decode_cases v with ⟨i, -, -, hdi⟩ | ⟨q, hq, hv, hdq⟩ | hill
    · cases hdi.symm.trans hd
    · cases hdq.symm.trans hd
      exact ⟨hq, hv⟩
    · cases hill.symm.trans hd
  · rintro ⟨hr, rfl⟩
    exact decode_encode_tail_of_gt hr

/-- The ILLEGAL words are those that no command encodes to, whatever its LEN (R82). -/
theorem decode_eq_illegal_iff {v : Word} : decode v = .illegal ↔ ∀ i, v ≠ encode i := by
  constructor
  · rintro hill i rfl
    cases hi : i.wellFormed with
    | true => cases (decode_encode hi).symm.trans hill
    | false =>
      cases i with
      | tail r =>
        have hr : maxTailLen < r.toNat := Nat.lt_of_not_le (of_decide_eq_false hi)
        cases (decode_encode_tail_of_gt hr).symm.trans hill
      | _ => cases hi
  · intro hnone
    rcases decode_cases v with ⟨i, -, hv, -⟩ | ⟨r, -, hv, -⟩ | hill
    · exact absurd hv (hnone i)
    · exact absurd hv (hnone (.tail r))
    · exact hill

/-- Settles O2, with the words of the three commands written out. -/
theorem everyWordDecodesToOneKind : Obligations.EveryWordDecodesToOneKind := by
  intro v
  refine ⟨?init, ?block, ?tail, ?badLen, ?illegal⟩
  case init => exact decode_eq_instr_iff.trans (and_iff_right rfl)
  case block => exact decode_eq_instr_iff.trans (and_iff_right rfl)
  case tail =>
    intro r
    rw [← encode_tail_eq_or]
    exact decode_eq_instr_iff.trans (and_congr_left' decide_eq_true_iff)
  case badLen =>
    intro r
    rw [← encode_tail_eq_or]
    exact decode_eq_badLen_iff
  case illegal =>
    simp only [← encode_tail_eq_or]
    refine decode_eq_illegal_iff.trans ⟨fun h => ⟨h .init, h .block, fun r => h (.tail r)⟩, ?_⟩
    rintro ⟨hinit, hblock, htail⟩ (_ | _ | r)
    · exact hinit
    · exact hblock
    · exact htail r

/-- Settles O3: each word is closed, so the decoder is evaluated on it. -/
theorem sampleWordsDecode : Obligations.SampleWordsDecode := by
  unfold Obligations.SampleWordsDecode
  decide

end Sys2Proof.Machine
end

section
/-!
The host programs LDM, LDT and RDH (30_encoding.md R86): what one access of each does, and where a program of accesses numbered
in order leads.
-/
namespace Sys2Proof.Machine

/-! ### Single accesses and numbered accesses -/

/-- A host write to word `j` of M with BUSY = 0 (R53, R85). -/
theorem State.handle_wr_m {s : State} (hb : s.busy = false) {j : Nat} (hj : j < 16) (v : Word) :
    s.handle (wr s.config.coreBase (0x040 + 4 * j) v) = .next (s.setM (Block.setWord s.m j v)) := by
  have hoff : s.windowOffset (s.config.coreBase + (0x040 + 4 * j)) 4 = .ok (0x040 + 4 * j) :=
    s.windowOffset_at _ (by unfold windowBytes; omega) (by omega)
  simp only [wr, State.handle, hoff, s.writeWindow_m hj, s.writeM_of_not_busy hb]

/-- A host read of word `j` of H (R55, R85). -/
theorem State.handle_rd_h (s : State) {j : Nat} (hj : j < 16) :
    s.handle (rd s.config.coreBase (0x080 + 4 * j)) = .next (s.logRead (Block.word s.h j)) := by
  have hoff : s.windowOffset (s.config.coreBase + (0x080 + 4 * j)) 4 = .ok (0x080 + 4 * j) :=
    s.windowOffset_at _ (by unfold windowBytes; omega) (by omega)
  simp only [rd, State.handle, hoff, s.readWindow_h hj]

/-- Events numbered from 0, the `j`-th of which takes state `u j` to `u (j + 1)`, lead from `u 0` to the last. -/
theorem State.Leads.map_range {e : Nat → Event} {u : Nat → State} {k : Nat}
    (h : ∀ j < k, ∀ rest, ((u j).withEvents rest).handle (e j) = .next ((u (j + 1)).withEvents rest)) :
    (u 0).Leads ((List.range k).map e) (u k) := by
  induction k with
  | zero => exact .nil _
  | succ k ih =>
    rw [List.range_succ, List.map_append]
    exact (ih fun j hj => h j (Nat.lt_succ_of_lt hj)).append (.single (h k (Nat.lt_succ_self k)))

/-! ### LDM -/

/-- `m` with its first `k` words, one after another, set to those of `b`: M in the midst of LDM. -/
def Block.setWords (m b : Block) : Nat → Block
  | 0 => m
  | k + 1 => Block.setWord (Block.setWords m b k) k (Block.word b k)

theorem Block.word_setWords (m b : Block) (k : Nat) {i : Nat} (hi : i < 16) :
    Block.word (Block.setWords m b k) i = if i < k then Block.word b i else Block.word m i := by
  induction k with
  | zero => rfl
  | succ k ih =>
    rw [Block.setWords, Block.word_setWord _ _ _ _ hi, ih]
    by_cases hik : i = k
    · subst hik
      rw [if_pos rfl, if_pos (Nat.lt_succ_self i)]
    · have hlt : i < k + 1 ↔ i < k := by omega
      simp only [if_neg hik, hlt]

/-- All sixteen words leave nothing of the old Block. -/
theorem Block.setWords_all (m b : Block) : Block.setWords m b 16 = b :=
  Block.ext_words fun i hi => by rw [Block.word_setWords m b 16 hi, if_pos hi]

/-- LDM leads to the state with the loaded M, whatever events stand behind it (R86). -/
theorem State.leads_ldm {s : State} (hb : s.busy = false) (b : Block) :
    s.Leads (ldm s.config.coreBase b) (s.setM b) := by
  have hwrites := State.Leads.map_range (k := 16) (u := fun k => s.setM (Block.setWords s.m b k))
    (e := fun j => wr s.config.coreBase (0x040 + 4 * j) (Block.word b j))
    fun j hj rest => State.handle_wr_m (s := (s.setM (Block.setWords s.m b j)).withEvents rest) hb hj _
  rwa [Block.setWords_all] at hwrites

/-- Settles O25. -/
theorem ldmLoadsTheBlock : Obligations.LdmLoadsTheBlock := fun _ b hb => (State.leads_ldm hb b).runEvents

/-! ### LDT -/

/-- The block LDT writes ends with the tail (R86). -/
theorem byte_rightJustified {t : List Byte} (ht : t.length ≤ 64) {k : Nat} (hk : k < t.length) :
    Block.byte (rightJustified t) (64 - t.length + k) = t[k] := by
  rw [rightJustified, Block.byte_ofByteList _ _ (by omega), List.getD_append_right _ _ _ _ (by simp),
    List.length_replicate, Nat.add_sub_cancel_left, List.getD_eq_getElem _ _ hk]

/-- Settles O26, byte by byte. -/
theorem ldtPlacesTheTail : Obligations.LdtPlacesTheTail := by
  intro t ht
  refine List.ext_getElem (tailBytes_length _ _) fun k _ hk => ?_
  simp only [tailBytes, List.getElem_map, List.getElem_range]
  exact byte_rightJustified (by omega) hk

/-! ### RDH -/

/-- `s` with the words `ws`, newest first, handed to the host (R55). -/
def State.logReads (s : State) (ws : List Word) : State := { s with reads := ws ++ s.reads }

theorem State.logRead_logReads (s : State) (ws : List Word) (v : Word) :
    (s.logReads ws).logRead v = s.logReads (v :: ws) := rfl

/-- The first `k` words of a Block, the last of them first: what `k` reads of a block register leave. -/
def Block.wordsRead (b : Block) (k : Nat) : List Word := ((List.range k).map (Block.word b)).reverse

theorem Block.wordsRead_succ (b : Block) (k : Nat) :
    Block.wordsRead b (k + 1) = Block.word b k :: Block.wordsRead b k := by
  simp [Block.wordsRead, List.range_succ]

theorem Block.length_wordsRead (b : Block) (k : Nat) : (Block.wordsRead b k).length = k := by simp [Block.wordsRead]

/-- RDH hands over the sixteen words of H, whatever events stand behind it (R86). -/
theorem State.leads_rdh (s : State) :
    s.Leads (rdh s.config.coreBase) (s.logReads (Block.wordsRead s.h 16)) :=
  State.Leads.map_range (u := fun k => s.logReads (Block.wordsRead s.h k)) fun j hj rest => by
    rw [Block.wordsRead_succ, ← State.logRead_logReads]
    exact ((s.logReads (Block.wordsRead s.h j)).withEvents rest).handle_rd_h hj

/-- Settles O27: the words read join to H. -/
theorem rdhReadsH : Obligations.RdhReadsH := fun s =>
  ⟨Block.wordsRead s.h 16, Block.length_wordsRead s.h 16, wordsJoinToTheBlock s.h, s.leads_rdh.runEvents⟩

end Sys2Proof.Machine
end

section
/-!
ByteBlockOps byte by byte (40_block_ops.md R100 to R103). XOR works on each byte alone; blk(v) writes the base-256 digits
of `v`; ADD is column addition of those digits, its carries the quotients of the low parts of the operands; and the marker
of PAD tells how long the tail is.
-/
namespace Sys2Proof.Machine

/-! ### XOR -/

/-- X on bytes (R100). -/
theorem byte_blockXor (a b : Block) (i : Nat) :
    Block.byte (blockXor a b) i = Block.byte a i ^^^ Block.byte b i := BitVec.extractLsb'_xor

/-- Settles O48: the laws of X are those of the exclusive or on bits. -/
theorem xorIsBytewise : Obligations.XorIsBytewise := fun a b c =>
  ⟨fun i _ => byte_blockXor a b i, BitVec.xor_self, BitVec.xor_zero, BitVec.xor_comm a b, BitVec.xor_assoc a b c⟩

/-! ### Block constants -/

/-- Reduction modulo a power of two keeps the digits below it. -/
theorem mod_two_pow_div_mod (v : Nat) {n k j : Nat} (h : k + j ≤ n) :
    v % 2 ^ n / 2 ^ k % 2 ^ j = v / 2 ^ k % 2 ^ j := by
  obtain ⟨m, rfl⟩ := Nat.exists_eq_add_of_le h
  rw [Nat.add_assoc, pow_add, Nat.mod_mul_right_div_self, pow_add, Nat.mod_mul_right_mod]

/-- The integer of blk(v). -/
theorem blk_toNat (v : Nat) : (blk v).toNat = v % 2 ^ 512 := BitVec.toNat_ofNat v 512

/-- The byte of a Block as a digit of its integer (R7). -/
theorem Block.byte_toNat_div (b : Block) (i : Nat) :
    (Block.byte b i).toNat = b.toNat / 2 ^ (8 * (63 - i)) % 256 := by
  rw [Block.byte_toNat, Nat.shiftRight_eq_div_pow]

/-- The bytes of blk(v) are the base-256 digits of `v`, the least significant last; what stands above them is lost (R102). -/
theorem byte_blk (v i : Nat) : (Block.byte (blk v) i).toNat = v / 2 ^ (8 * (63 - i)) % 256 := by
  rw [Block.byte_toNat_div, blk_toNat]
  exact mod_two_pow_div_mod v (j := 8) (by omega)

/-- Settles O50. -/
theorem blkIsBigEndian : Obligations.BlkIsBigEndian := fun v hv =>
  ⟨(blk_toNat v).trans (Nat.mod_eq_of_lt hv), fun i _ => byte_blk v i⟩

/-! ### ADD -/

/-- ADD reduces the integer sum (R101). -/
theorem blockAdd_eq_blk (a b : Block) : blockAdd a b = blk (a.toNat + b.toNat) := rfl

/-- ADD of block constants. -/
theorem blockAdd_blk (u v : Nat) : blockAdd (blk u) (blk v) = blk (u + v) := BitVec.ofNat_add_ofNat u v

/-- The first integer that no Block holds wraps to zero. -/
theorem blk_two_pow : blk (2 ^ 512) = blk 0 :=
  BitVec.eq_of_toNat_eq (by rw [blk_toNat, blk_toNat, Nat.mod_self, Nat.zero_mod])

/-- The carry out of byte 0 is discarded (R101). -/
theorem blockAdd_blk_max_one : blockAdd (blk (2 ^ 512 - 1)) (blk 1) = blk 0 := by
  rw [blockAdd_blk, Nat.sub_add_cancel Nat.one_le_two_pow, blk_two_pow]

/-- Cut both summands at the place value `p`: the high parts add, with the carry out of the low parts. -/
theorem add_div_eq_add_carry (x y : Nat) {p : Nat} (hp : 0 < p) :
    (x + y) / p = x / p + y / p + (x % p + y % p) / p := by
  have hcut : x + y = x % p + y % p + p * (x / p + y / p) := by
    conv_lhs => rw [← Nat.mod_add_div x p, ← Nat.mod_add_div y p]
    ring
  rw [hcut, Nat.add_mul_div_left _ _ hp, Nat.add_comm]

/-- The carry out of byte `i` when ADD has added the bytes 63 down to `i` (R101): the quotient, by their place value, of
the sum of the integers that those bytes of the operands stand for. -/
def addCarry (a b : Block) (i : Nat) : Nat :=
  (a.toNat % 2 ^ (8 * (64 - i)) + b.toNat % 2 ^ (8 * (64 - i))) / 2 ^ (8 * (64 - i))

/-- ADD's loop begins with no carry. -/
theorem addCarry_last (a b : Block) : addCarry a b 64 = 0 := by simp [addCarry, Nat.mod_one]

/-- The carry into byte `i`, in the place value of that byte. -/
theorem addCarry_succ (a b : Block) (i : Nat) :
    addCarry a b (i + 1) =
      (a.toNat % 2 ^ (8 * (63 - i)) + b.toNat % 2 ^ (8 * (63 - i))) / 2 ^ (8 * (63 - i)) := by
  rw [addCarry, Nat.add_sub_add_right 63 1 i]

/-- `out[i] <- t mod 256` of ADD's loop (R101). -/
theorem byte_blockAdd (a b : Block) (i : Nat) :
    (Block.byte (blockAdd a b) i).toNat =
      ((Block.byte a i).toNat + (Block.byte b i).toNat + addCarry a b (i + 1)) % 256 := by
  rw [blockAdd_eq_blk, byte_blk, add_div_eq_add_carry _ _ (Nat.two_pow_pos _), ← addCarry_succ,
    Block.byte_toNat_div a, Block.byte_toNat_div b]
  omega

/-- `carry <- t div 256` of ADD's loop (R101). -/
theorem addCarry_eq_div (a b : Block) {i : Nat} (hi : i < 64) :
    addCarry a b i = ((Block.byte a i).toNat + (Block.byte b i).toNat + addCarry a b (i + 1)) / 256 := by
  have hplace : (2 : Nat) ^ (8 * (64 - i)) = 2 ^ (8 * (63 - i)) * 256 := by
    rw [show 8 * (64 - i) = 8 * (63 - i) + 8 by omega, pow_add]
    rfl
  rw [addCarry, hplace, ← Nat.div_div_eq_div_mul, add_div_eq_add_carry _ _ (Nat.two_pow_pos _),
    Nat.mod_mul_right_div_self, Nat.mod_mul_right_div_self, Nat.mod_mul_right_mod, Nat.mod_mul_right_mod,
    ← addCarry_succ, ← Block.byte_toNat_div, ← Block.byte_toNat_div]

/-- Settles O49: the laws of ADD are those of addition modulo 2^512, and its carries are `addCarry`. -/
theorem addRipplesBytes : Obligations.AddRipplesBytes := fun a b c =>
  ⟨blockAdd_blk_max_one, BitVec.add_zero a, BitVec.add_comm a b, BitVec.add_assoc a b c, blockAdd_toNat a b,
    addCarry a b, addCarry_last a b, fun i hi => ⟨byte_blockAdd a b i, addCarry_eq_div a b hi⟩⟩

/-! ### PAD -/

/-- Every byte before the marker is zero (R103). -/
theorem byte_pad_zeros {t : List Byte} {i : Nat} (hi : i < 63 - t.length) : Block.byte (pad t) i = 0x00#8 := by
  rw [byte_pad t i (by omega), if_pos hi]

/-- The marker stands just before the tail (R103). -/
theorem byte_pad_marker (t : List Byte) : Block.byte (pad t) (63 - t.length) = 0x01#8 := by
  rw [byte_pad t _ (by omega), if_neg (Nat.lt_irrefl _), if_pos rfl]

/-- The tail fills the last bytes (R103). -/
theorem byte_pad_tail {t : List Byte} (ht : t.length ≤ 63) {k : Nat} (hk : k < t.length) :
    Block.byte (pad t) (64 - t.length + k) = t[k] := by
  rw [byte_pad t _ (by omega), if_neg (by omega), if_neg (by omega), Nat.add_sub_cancel_left,
    List.getD_eq_getElem _ _ hk]

/-- Settles O51. -/
theorem padLayout : Obligations.PadLayout := fun t ht =>
  ⟨fun _ hi => byte_pad_zeros hi, byte_pad_marker t, fun _ hk => byte_pad_tail ht hk⟩

/-- A longer tail would have its marker where PAD of the shorter one still has a zero. -/
theorem length_le_of_pad_eq {t u : List Byte} (hu : u.length ≤ 63) (h : pad t = pad u) : u.length ≤ t.length := by
  by_contra hlt
  have hzero : Block.byte (pad t) (63 - u.length) = 0x00#8 := byte_pad_zeros (by omega)
  rw [h, byte_pad_marker] at hzero
  exact absurd hzero (by decide)

/-- Settles O52: equal Blocks have their markers at one place, so the tails have one length, and one byte at each place. -/
theorem padIsInjective : Obligations.PadIsInjective := by
  intro t u ht hu h
  have hlen : t.length = u.length := Nat.le_antisymm (length_le_of_pad_eq ht h.symm) (length_le_of_pad_eq hu h)
  refine List.ext_getElem hlen fun k hkt hku => ?_
  calc t[k] = Block.byte (pad t) (64 - t.length + k) := (byte_pad_tail ht hkt).symm
    _ = Block.byte (pad u) (64 - u.length + k) := by rw [h, hlen]
    _ = u[k] := byte_pad_tail hu hku

end Sys2Proof.Machine
end

section
/-!
L and LPS (41_spl.md R120 to R123): each segment of L(a) is the accumulator of the same segment of `a`, which is linear; and
the operand of L within LPS(a) is read byte by byte through PERM and SBOX.
-/
namespace Sys2Proof.Machine

/-- XOR of Blocks acts on each segment alone (R122). -/
theorem segment_blockXor (a b : Block) (s : Nat) :
    Block.segment (blockXor a b) s = Block.segment a s ^^^ Block.segment b s := BitVec.extractLsb'_xor

/-- The linear layer on one segment is linear over GF(2) (R122). -/
theorem diffuseSegment_xor (t : Tables) (v w : Segment) :
    diffuseSegment t (v ^^^ w) = diffuseSegment t v ^^^ diffuseSegment t w := segmentAcc_xor t v w 64 (Nat.le_refl _)

/-- L is linear over GF(2) (R122). -/
theorem diffuse_blockXor (t : Tables) (a b : Block) :
    diffuse t (blockXor a b) = blockXor (diffuse t a) (diffuse t b) :=
  Block.ext_segments fun s hs => by
    rw [segment_diffuse t _ s hs, segment_blockXor, diffuseSegment_xor, segment_blockXor, segment_diffuse t a s hs,
      segment_diffuse t b s hs]

/-- L keeps `blk(0)`: it is `blk(0) XOR blk(0)`, so its image is the XOR of one Block with itself (R122). -/
theorem diffuse_blk_zero (t : Tables) : diffuse t (blk 0) = blk 0 :=
  calc diffuse t (blk 0) = diffuse t (blockXor (blk 0) (blk 0)) := congrArg (diffuse t) BitVec.xor_self.symm
    _ = blockXor (diffuse t (blk 0)) (diffuse t (blk 0)) := diffuse_blockXor t _ _
    _ = blk 0 := BitVec.xor_self

/-- Settles O55: linearity segment by segment, and the image of zero from linearity. -/
theorem diffusionIsLinear : Obligations.DiffusionIsLinear := fun t a b =>
  ⟨diffuse_blk_zero t, diffuse_blockXor t a b⟩

/-- The accumulator after `k` bits is the XOR of the rows that the first `k` bits select, in their order (R122). -/
theorem segmentAcc_eq_foldl (t : Tables) (w : Segment) (k : Nat) :
    segmentAcc t w k =
      (List.range k).foldl (fun acc j => if w.getLsbD (63 - j) then acc ^^^ linAt t j else acc) 0#64 := by
  induction k with
  | zero => rfl
  | succ k ih => rw [List.range_succ, List.foldl_concat, ← ih, segmentAcc]

/-- Byte `u` of segment `s`, counted from the top, is byte `8s + u` of the Block (R122). -/
theorem byte_of_segment (a : Block) {s u : Nat} (hs : s < 8) (hu : u < 8) :
    (Block.segment a s).extractLsb' (8 * (7 - u)) 8 = Block.byte a (8 * s + u) := by
  have hdiv : (8 * s + u) / 8 = s := by omega
  have hmod : (8 * s + u) % 8 = u := by omega
  rw [Block.byte_eq_segment a _ (by omega), hdiv, hmod]

/-- P after S: byte `i` is the substitute of the byte that PERM names (R120, R121). -/
theorem byte_permute_substitute (t : Tables) (a : Block) {i : Nat} (hi : i < 64) :
    Block.byte (permute t (substitute t a)) i = sboxAt t (Block.byte a (permAt t i)) := by
  rw [byte_permute t _ i hi, byte_substitute t a _ (permAt_lt t i)]

/-- Settles O56: the segment asked for is segment `s` of P(S(a)), the operand of L (R123). -/
theorem lpsBySegments : Obligations.LpsBySegments := by
  intro t a s hs
  refine ⟨Block.segment (permute t (substitute t a)) s, fun u hu => ?_, ?_⟩
  · rw [byte_of_segment _ hs hu, byte_permute_substitute t a (by omega)]
  · calc Block.segment (lps t a) s
        = diffuseSegment t (Block.segment (permute t (substitute t a)) s) := segment_diffuse t _ s hs
      _ = _ := segmentAcc_eq_foldl t _ 64

end Sys2Proof.Machine
end

section
/-!
The key schedule, E and G (42_cipher.md R140 to R145): the running key of the inline rounds is the key of the precomputed
schedule at the same index, so the inline rounds are a fold over that schedule, and G is such a fold with its two feedbacks.
-/
namespace Sys2Proof.Machine

/-- The schedule holds one key before the rounds and one for each of the 12 rounds (R141). -/
theorem length_schedule (t : Tables) (k : Block) : (schedule t k).length = 13 := by
  rw [schedule, List.length_map, List.length_range]

/-- Entry `i` of the schedule is round key `i` (R141). -/
theorem getElem?_schedule (t : Tables) (k : Block) {i : Nat} (hi : i ≤ 12) :
    (schedule t k)[i]? = some (roundKey t k i) := by
  rw [schedule, List.getElem?_map, List.getElem?_range (Nat.lt_succ_of_le hi), Option.map_some]

/-- The running key never depends on the message: after `i` rounds it is round key `i` (R143). -/
theorem cipherRounds_key (t : Tables) (k m : Block) (i : Nat) : (cipherRounds t k m i).key = roundKey t k i := by
  induction i with
  | zero => rfl
  | succ i ih => exact congrArg (keyStep t · i) ih

/-- One inline round: LPS of the old state, then XOR with the NEW round key (R142). -/
theorem cipherRounds_state_succ (t : Tables) (k m : Block) (i : Nat) :
    (cipherRounds t k m (i + 1)).state = blockXor (lps t (cipherRounds t k m i).state) (roundKey t k (i + 1)) :=
  congrArg (blockXor _) (cipherRounds_key t k m (i + 1))

/-- The state after `r` inline rounds is that of `r` rounds over the precomputed schedule (R142, R143). -/
theorem cipherRounds_state_eq_foldl (t : Tables) (k m : Block) {r : Nat} (hr : r ≤ 12) :
    (cipherRounds t k m r).state =
      (List.range r).foldl (fun st i => blockXor (lps t st) ((schedule t k).getD (i + 1) 0#512)) (blockXor m k) := by
  induction r with
  | zero => rfl
  | succ r ih =>
    have hkey : (schedule t k).getD (r + 1) 0#512 = roundKey t k (r + 1) := by
      rw [List.getD_eq_getElem?_getD, getElem?_schedule t k hr, Option.getD_some]
    rw [cipherRounds_state_succ, List.range_succ, List.foldl_concat, hkey, ih (Nat.le_of_succ_le hr)]

/-- E is the cipher over the precomputed schedule (R143). -/
theorem cipher_eq_foldl (t : Tables) (k m : Block) :
    cipher t k m =
      (List.range 12).foldl (fun st i => blockXor (lps t st) ((schedule t k).getD (i + 1) 0#512)) (blockXor m k) :=
  cipherRounds_state_eq_foldl t k m (Nat.le_refl 12)

/-- Settles O57: the entries of the schedule are the round keys, and these are the running keys of the inline cipher. -/
theorem inlineScheduleAgrees : Obligations.InlineScheduleAgrees := by
  intro t k m
  refine ⟨length_schedule t k, getElem?_schedule t k (Nat.zero_le 12), fun i hi => ?next, fun i hi => ?running,
    cipher_eq_foldl t k m⟩
  case next => exact ⟨roundKey t k i, getElem?_schedule t k (Nat.le_of_lt hi), getElem?_schedule t k hi⟩
  case running => rw [getElem?_schedule t k hi, cipherRounds_key]

/-- Settles O58: G feeds the old `h` and `m` back into E, which is the cipher over the schedule of LPS(h XOR N). -/
theorem compressionOverTheSchedule : Obligations.CompressionOverTheSchedule := fun t n h m =>
  congrArg (fun e => blockXor (blockXor e h) m) (cipher_eq_foldl t (lps t (blockXor h n)) m)

end Sys2Proof.Machine
end

section
/-!
The issue of a command (45_commands.md R160, R163 to R165): what each of the checks of R205 leads to, and what no issue touches.
-/
namespace Sys2Proof.Machine

/-! ### The checks of R205 -/

section
variable {s : State}

/-- With BUSY = 1 the gate discards the write (R206). -/
theorem State.gate_of_busy (hb : s.busy = true) (act : State → State) : s.gate act = s.discardWrite := by
  simp [State.gate, hb]

/-- In ERROR the gate ignores the write (R208). -/
theorem State.gate_of_error (hb : s.busy = false) (he : s.engine = .error) (act : State → State) : s.gate act = s := by
  simp [State.gate, hb, he]

/-- Otherwise the gate lets the write through. -/
theorem State.gate_of_ready (hb : s.busy = false) (he : s.engine ≠ .error) (act : State → State) :
    s.gate act = act s := by
  simp [State.gate, hb, he]

/-- Behind the gate BLOCK and TAIL act in FULL alone (R160, R203). -/
theorem State.inSequence_of_ready (hb : s.busy = false) (he : s.engine ≠ .error) (act : State → State) :
    s.inSequence act = if s.engine = .full then act s else s.enterError .sequence :=
  State.gate_of_ready hb he _

/-- In FULL with BUSY = 0 both checks are passed. -/
theorem State.inSequence_of_full (hb : s.busy = false) (hf : s.engine = .full) (act : State → State) :
    s.inSequence act = act s := by
  rw [State.inSequence_of_ready hb (by simp [hf]), if_pos hf]

/-! ### The commands -/

/-- INIT with BUSY = 0 (R163). -/
theorem exec_init_of_idle (hb : s.busy = false) : exec .init s = .next s.startHash := by
  simp [exec, execInit, hb]

theorem exec_block_eq (s : State) : exec .block s = .next (s.inSequence State.beginBlock) := rfl

/-- TAIL with a legal LEN (R165). -/
theorem exec_tail_of_le {r : Len} (hr : r.toNat ≤ maxTailLen) (s : State) :
    exec (.tail r) s = .next (s.inSequence (·.beginTail r)) := by
  simp [exec, execTail, hr]

/-- TAIL with LEN above 63 is issued as BADLEN (R202). -/
theorem exec_tail_of_gt {r : Len} (hr : ¬ r.toNat ≤ maxTailLen) (s : State) :
    exec (.tail r) s = .next s.issueBadLen := by
  simp [exec, execTail, hr]

/-- BLOCK in FULL with BUSY = 0 (R164). -/
theorem exec_block_of_full (hb : s.busy = false) (hf : s.engine = .full) : exec .block s = .next s.beginBlock := by
  rw [exec_block_eq, State.inSequence_of_full hb hf]

/-- TAIL r in FULL with BUSY = 0 (R165). -/
theorem exec_tail_of_full (hb : s.busy = false) (hf : s.engine = .full) {r : Len} (hr : r.toNat ≤ maxTailLen) :
    exec (.tail r) s = .next (s.beginTail r) := by
  rw [exec_tail_of_le hr, State.inSequence_of_full hb hf]

end

/-- Settles O7. -/
theorem initStartsHash : Obligations.InitStartsHash := fun _ hb => exec_init_of_idle hb

/-- Settles O8. -/
theorem blockIssueSetsBusy : Obligations.BlockIssueSetsBusy := fun _ hb hf => exec_block_of_full hb hf

/-- Settles O9. -/
theorem tailIssueLatchesLength : Obligations.TailIssueLatchesLength := fun _ _ hb hf hr => exec_tail_of_full hb hf hr

/-- Settles O11: every register that INIT keeps but TLEN is assumed equal, BUSY being 0 in both states. -/
theorem initForgetsTheOldHash : Obligations.InitForgetsTheOldHash := by
  intro s s' hb hb' hpend hm hconfig hevents hreads
  refine ⟨s.startHash, s'.startHash, exec_init_of_idle hb, exec_init_of_idle hb', ?_⟩
  simp only [State.startHash, hb, hb', hpend, hm, hconfig, hevents, hreads]

/-! ### What a command's issue never touches -/

/-- The states the sequence check leads to, whatever the old state. -/
theorem State.inSequence_eq_or (s : State) (act : State → State) :
    s.inSequence act = s.discardWrite ∨ s.inSequence act = s ∨ (∃ c, s.inSequence act = s.enterError c) ∨
      s.inSequence act = act s := by
  rcases s.inSequence_cases act with ⟨-, e⟩ | ⟨-, -, e⟩ | ⟨-, -, -, e⟩ | ⟨-, -, e⟩
  · exact .inl e
  · exact .inr (.inl e)
  · exact .inr (.inr (.inl ⟨_, e⟩))
  · exact .inr (.inr (.inr e))

/-- Everything the issue of a command can do. -/
theorem exec_next_cases {i : Instr} {s t : State} (h : exec i s = .next t) :
    (i = .init ∧ t = s.startHash) ∨ t = s.discardWrite ∨ t = s ∨ (∃ c, t = s.enterError c) ∨ t = s.beginBlock ∨
      ∃ r, t = s.beginTail r := by
  cases i with
  | init =>
    cases hb : s.busy with
    | true =>
      have hd : exec .init s = .next s.discardWrite := by simp [exec, execInit, hb]
      cases hd.symm.trans h
      exact .inr (.inl rfl)
    | false =>
      cases (exec_init_of_idle hb).symm.trans h
      exact .inl ⟨rfl, rfl⟩
  | block =>
    cases (exec_block_eq s).symm.trans h
    exact .inr ((s.inSequence_eq_or _).imp_right (.imp_right (.imp_right .inl)))
  | tail r =>
    by_cases hr : r.toNat ≤ maxTailLen
    · cases (exec_tail_of_le hr s).symm.trans h
      exact .inr ((s.inSequence_eq_or _).imp_right (.imp_right (.imp_right fun e => .inr ⟨r, e⟩)))
    · cases (exec_tail_of_gt hr s).symm.trans h
      rcases s.gate_cases (·.enterError .tailLen) with ⟨-, e⟩ | ⟨-, -, e⟩ | ⟨-, -, e⟩
      · exact .inr (.inl e)
      · exact .inr (.inr (.inl e))
      · exact .inr (.inr (.inr (.inl ⟨_, e⟩)))

/-- A window word that is not STATUS depends on M, or on H, N and SIGMA where these stand (R51). -/
theorem State.readWindow_eq_of_ne_status {s t : State} {off : Nat} (hoff : off ≠ 0x004) (hm : t.m = s.m)
    (hchain : off < 0x080 ∨ 0x140 ≤ off ∨ t.chain = s.chain) : t.readWindow off = s.readWindow off := by
  rcases hchain with hlow | hhigh | hchain
  · have hh : ¬ (0x080 ≤ off ∧ off ≤ 0x0BC) := by omega
    have hn : ¬ (0x0C0 ≤ off ∧ off ≤ 0x0FC) := by omega
    have hsigma : ¬ (0x100 ≤ off ∧ off ≤ 0x13C) := by omega
    simp only [State.readWindow, if_neg hoff, if_neg hh, if_neg hn, if_neg hsigma, hm]
  · rw [s.readWindow_reserved (.inr hhigh), t.readWindow_reserved (.inr hhigh)]
  · obtain ⟨hh, hn, hsigma⟩ : t.h = s.h ∧ t.n = s.n ∧ t.sigma = s.sigma := by simpa using hchain
    simp only [State.readWindow, if_neg hoff, hm, hh, hn, hsigma]

/-- Settles O10: only INIT writes the accumulators, and no issue writes M. -/
theorem commandIssueFrame : Obligations.CommandIssueFrame := by
  intro s t i h
  rcases exec_next_cases h with ⟨rfl, rfl⟩ | rfl | rfl | ⟨c, rfl⟩ | rfl | ⟨r, rfl⟩
  · refine ⟨rfl, rfl, rfl, rfl, fun hne => absurd rfl hne, fun off hoff hinit => ?_⟩
    exact State.readWindow_eq_of_ne_status hoff rfl ((hinit rfl).imp_right .inl)
  all_goals
    exact ⟨rfl, rfl, rfl, rfl, fun _ => ⟨rfl, rfl, rfl⟩, fun off hoff _ =>
      State.readWindow_eq_of_ne_status hoff rfl (.inr (.inr rfl))⟩

/-! ### The order of the checks -/

section
variable {s : State}

/-- The first check: with BUSY = 1 every word is discarded (R205, R206). -/
theorem State.issue_of_busy (hb : s.busy = true) (v : Word) : s.issue v = .next s.discardWrite := by
  unfold State.issue
  split
  · next i hd =>
    cases i with
    | init => simp [exec, execInit, hb]
    | block => exact congrArg _ (State.gate_of_busy hb _)
    | tail r => rw [exec_tail_of_le (decode_tail_le hd)]; exact congrArg _ (State.gate_of_busy hb _)
  · exact congrArg _ (State.gate_of_busy hb _)
  · exact congrArg _ (State.gate_of_busy hb _)

/-- The second check: in ERROR every word but INIT's is ignored (R205, R208). -/
theorem State.issue_of_error (hb : s.busy = false) (he : s.engine = .error) {v : Word}
    (hv : decode v ≠ .instr .init) : s.issue v = .next s := by
  unfold State.issue
  split
  · next i hd =>
    cases i with
    | init => exact absurd hd hv
    | block => exact congrArg _ (State.gate_of_error hb he _)
    | tail r => rw [exec_tail_of_le (decode_tail_le hd)]; exact congrArg _ (State.gate_of_error hb he _)
  · exact congrArg _ (State.gate_of_error hb he _)
  · exact congrArg _ (State.gate_of_error hb he _)

/-- What is left behind the first two checks: the outcome of each word (R205). -/
def State.issueReady (s : State) : Decoded → State
  | .illegal => s.enterError .illegalCmd
  | .badLen _ => s.enterError .tailLen
  | .instr .init => s.startHash
  | .instr .block => if s.engine = .full then s.beginBlock else s.enterError .sequence
  | .instr (.tail r) => if s.engine = .full then s.beginTail r else s.enterError .sequence

/-- Behind the first two checks, which let INIT pass in ERROR too. -/
theorem State.issue_of_ready (hb : s.busy = false) {v : Word} (he : s.engine ≠ .error ∨ decode v = .instr .init) :
    s.issue v = .next (s.issueReady (decode v)) := by
  unfold State.issue
  cases hd : decode v with
  | instr i =>
    cases i with
    | init => exact exec_init_of_idle hb
    | block =>
      have he' : s.engine ≠ .error := he.resolve_right (by simp [hd])
      exact congrArg _ (State.inSequence_of_ready hb he' _)
    | tail r =>
      have he' : s.engine ≠ .error := he.resolve_right (by simp [hd])
      exact (exec_tail_of_le (decode_tail_le hd) s).trans (congrArg _ (State.inSequence_of_ready hb he' _))
  | badLen r => exact congrArg _ (State.gate_of_ready hb (he.resolve_right (by simp [hd])) _)
  | illegal => exact congrArg _ (State.gate_of_ready hb (he.resolve_right (by simp [hd])) _)

end

/-- A step at the host's CMD write issues its word (R160). -/
theorem step_cmdWrite {s : State} {v : Word} {rest : List Event} (he : s.events = s.cmdWrite v :: rest) :
    step s = (s.withEvents rest).issue v := step_write (off := 0x000) (by decide) (by decide) he

/-- Settles O12, check by check. -/
theorem issueChecksInOrder : Obligations.IssueChecksInOrder := by
  intro s v rest he
  rw [step_cmdWrite he]
  have hinit : decode v = .instr .init ↔ v = 0x00000001#32 := (everyWordDecodesToOneKind v).1
  split
  · next hb => exact State.issue_of_busy (s := s.withEvents rest) hb v
  next hb =>
  have hidle : (s.withEvents rest).busy = false := Bool.eq_false_iff.mpr hb
  split
  · next herr => exact State.issue_of_error hidle herr.1 (mt hinit.mp herr.2)
  · next herr =>
    have hready : s.engine ≠ .error ∨ decode v = .instr .init := by
      rw [hinit]; exact not_and_or.mp herr |>.imp_right not_not.mp
    rw [State.issue_of_ready hidle hready]
    rcases decode v with (_ | _ | r) | r | _
    all_goals rfl

end Sys2Proof.Machine
end

section
/-!
The sequencer's steps field by field (45_commands.md R162, R164, R167 to R169; 60_exceptions.md R207), and how many of them a
command still needs (R161).
-/
namespace Sys2Proof.Machine

/-! ### The four steps -/

/-- `Complete()` field by field (R207). -/
theorem State.complete_eq (s : State) :
    s.complete = { s with
      pend := false
      engine := if s.pend then .error else s.engine
      code := if s.pend then .busyWrite else s.code } := by
  obtain ⟨h, n, sigma, m, engine, busy, code, pend, tlen, config, events, reads⟩ := s
  cases pend with
  | false => rfl
  | true => rfl

section
variable {s : State}

/-- With BUSY = 0 the sequencer has no step (R162). -/
theorem State.sequencerTurn_of_idle (hb : s.busy = false) : s.sequencerTurn = .next s := by
  simp [State.sequencerTurn, hb]

theorem State.sequencerTurn_of_full (hb : s.busy = true) (he : s.engine = .full) :
    s.sequencerTurn = .next s.blockStep := by simp [State.sequencerTurn, hb, he]

theorem State.sequencerTurn_of_tail (hb : s.busy = true) (he : s.engine = .tail) :
    s.sequencerTurn = .next s.tailStep := by simp [State.sequencerTurn, hb, he]

theorem State.sequencerTurn_of_finlen (hb : s.busy = true) (he : s.engine = .finlen) :
    s.sequencerTurn = .next s.finlenStep := by simp [State.sequencerTurn, hb, he]

theorem State.sequencerTurn_of_finsum (hb : s.busy = true) (he : s.engine = .finsum) :
    s.sequencerTurn = .next s.finsumStep := by simp [State.sequencerTurn, hb, he]

end

/-- Settles O28. -/
theorem blockStepCommits : Obligations.BlockStepCommits := by
  intro s hb he
  rw [State.sequencerTurn_of_full hb he, State.blockStep, State.complete_eq, ← he]
  rfl

/-- Settles O29. -/
theorem tailStepCommits : Obligations.TailStepCommits := fun _ hb he => State.sequencerTurn_of_tail hb he

/-- Settles O30. -/
theorem finlenStepCommits : Obligations.FinlenStepCommits := fun _ hb he => State.sequencerTurn_of_finlen hb he

/-- Settles O31. -/
theorem finsumStepCommits : Obligations.FinsumStepCommits := by
  intro s hb he
  rw [State.sequencerTurn_of_finsum hb he, State.finsumStep, State.complete_eq]
  rfl

/-- Settles O32: the last step of a command clears BUSY, and the others change STATE. -/
theorem sequencerEnabledExactlyWhenBusy : Obligations.SequencerEnabledExactlyWhenBusy := by
  intro s hinv
  obtain ⟨t, ht⟩ := hinv.exists_sequencerTurn_next
  refine ⟨t, ht, ?same, ?idle⟩
  case idle => intro hb; cases (State.sequencerTurn_of_idle hb).symm.trans ht; rfl
  case same =>
    rintro rfl
    by_contra hb
    rw [Bool.not_eq_false] at hb
    rcases State.sequencerTurn_next ht with ⟨h0, -⟩ | ⟨-, ⟨-, e⟩ | ⟨he, e⟩ | ⟨he, e⟩ | ⟨-, e⟩⟩
    · simp [hb] at h0
    · have := congrArg State.busy e; simp [hb] at this
    · have := congrArg State.engine e; simp [he] at this
    · have := congrArg State.engine e; simp [he] at this
    · have := congrArg State.busy e; simp [hb] at this

/-- Settles O33: the TAIL, FINLEN and FINSUM steps one after another. -/
theorem tailRunsToTheDigest : Obligations.TailRunsToTheDigest := by
  intro s hb he hev
  have htail : step s = .next s.tailStep := (step_nil hev).trans (State.sequencerTurn_of_tail hb he)
  have hfinlen : step s.tailStep = .next s.tailStep.finlenStep :=
    (step_nil (s := s.tailStep) hev).trans (State.sequencerTurn_of_finlen (s := s.tailStep) hb rfl)
  have hfinsum := (step_nil (s := s.tailStep.finlenStep) hev).trans (finsumStepCommits s.tailStep.finlenStep hb rfl)
  exact (run_succ htail 2).trans ((run_succ hfinlen 1).trans (run_succ hfinsum 0))

/-! ### The host beside a busy command -/

/-- With BUSY = 1 a host access hands over a word, is discarded, or is ignored (R55, R206). -/
theorem Moves.of_access_of_busy {u t : State} {e : Event} (h : Moves u (some e) t) (hb : u.busy = true)
    (he : (∃ addr bytes, e = .read addr bytes) ∨ ∃ addr bytes v, e = .write addr bytes v) :
    (∃ v, t = u.logRead v) ∨ t = u.discardWrite ∨ t = u := by
  have hne : ¬ SequencerEvent (some e) := by
    rcases he with ⟨_, _, rfl⟩ | ⟨_, _, _, rfl⟩ <;> simp [SequencerEvent]
  cases h with
  | read => exact .inl ⟨_, rfl⟩
  | discarded => exact .inr (.inl rfl)
  | ignoredWrite => exact .inr (.inr rfl)
  | reset => simp at he
  | noTurn hs | blockStep hs | tailStep hs | finlenStep hs | finsumStep hs => exact absurd hs hne
  | init _ h0 | ignoredInError _ h0 | illegal _ h0 | badLen _ h0 | outOfSequence _ h0 | block _ h0 | tail _ h0
  | setM _ _ h0 => simp [hb] at h0

/-- Settles O34: none of the three outcomes touches the registers named. -/
theorem hostCannotDisturbABusyCommand : Obligations.HostCannotDisturbABusyCommand := by
  intro s t hb hs hacc
  have hm := step_moves hs
  obtain ⟨e, hhead, he⟩ : ∃ e, s.events.head? = some e ∧
      ((∃ addr bytes, e = .read addr bytes) ∨ ∃ addr bytes v, e = .write addr bytes v) := by
    rcases hacc with ⟨a, n, h⟩ | ⟨a, n, v, h⟩
    · exact ⟨_, h, .inl ⟨a, n, rfl⟩⟩
    · exact ⟨_, h, .inr ⟨a, n, v, rfl⟩⟩
  rw [hhead] at hm
  rcases hm.of_access_of_busy hb he with ⟨v, rfl⟩ | rfl | rfl
  all_goals exact ⟨rfl, rfl, rfl, rfl, rfl, hb, rfl, rfl, rfl⟩

/-! ### Completion -/

/-- How many sequencer steps the command in a busy STATE still needs (R161, R162). -/
def EngineState.turnsLeft : EngineState → Nat
  | .full => 1
  | .tail => 3
  | .finlen => 2
  | .finsum => 1
  | .idle => 0
  | .done => 0
  | .error => 0

theorem EngineState.turnsLeft_le (e : EngineState) : e.turnsLeft ≤ 3 := by cases e <;> decide

theorem EngineState.turnsLeft_pos {e : EngineState} (h : e.mayBeBusy = true) : 0 < e.turnsLeft := by
  cases e with
  | idle | done | error => cases h
  | _ => decide

/-- A step of the sequencer ends the command or brings it one step nearer to its end. -/
theorem State.sequencerTurn_turnsLeft {s t : State} (hb : s.busy = true) (h : s.sequencerTurn = .next t) :
    t.busy = false ∨ t.engine.turnsLeft + 1 = s.engine.turnsLeft := by
  rcases State.sequencerTurn_next h with ⟨h0, -⟩ | ⟨-, ⟨-, rfl⟩ | ⟨he, rfl⟩ | ⟨he, rfl⟩ | ⟨-, rfl⟩⟩
  · simp [hb] at h0
  · exact .inl s.blockStep_busy
  · exact .inr (by rw [he]; rfl)
  · exact .inr (by rw [he]; rfl)
  · exact .inl s.finsumStep_busy

/-- With no event left a run as long as the command still needs completes it (R161, R250). -/
theorem State.Inv.exists_run_complete {k : Nat} {s : State} (h : s.Inv) (hev : s.events = [])
    (hk : s.busy = true → s.engine.turnsLeft ≤ k) :
    ∃ t, Host.Core.run Sys2Proof.core k s = .next t ∧ t.busy = false ∧ t.events = [] := by
  induction k generalizing s with
  | zero =>
    refine ⟨s, rfl, Bool.eq_false_iff.mpr fun hb => ?_, hev⟩
    exact absurd (EngineState.turnsLeft_pos (h.busy_engine hb)) (Nat.not_lt.mpr (hk hb))
  | succ k ih =>
    cases hb : s.busy with
    | false => exact ⟨s, run_idle hev hb _, hb, hev⟩
    | true =>
      obtain ⟨t, ht⟩ := h.exists_sequencerTurn_next
      have hs : step s = .next t := (step_nil hev).trans ht
      rw [run_succ hs]
      refine ih (stepKeepsInvariant s t h hs) (by rw [step_events hs, hev]; rfl) fun hb' => ?_
      have hle := hk hb
      have := (State.sequencerTurn_turnsLeft hb ht).resolve_left (by simp [hb'])
      omega

/-- A run through accepted events reaches a state of the invariant with none left. -/
theorem State.Inv.exists_run_events {s : State} (h : s.Inv) (ha : s.accessesLegal) :
    ∃ t, Host.Core.run Sys2Proof.core s.events.length s = .next t ∧ t.Inv ∧ t.events = [] := by
  generalize hevs : s.events = evs
  induction evs generalizing s with
  | nil => exact ⟨s, rfl, h, hevs⟩
  | cons e rest ih =>
    obtain ⟨t, hs⟩ := h.exists_step_next ha
    rw [List.length_cons, run_succ hs]
    exact ih (stepKeepsInvariant s t h hs) (step_accessesLegal hs ha) (by rw [step_events hs, hevs]; rfl)

/-- Settles O35: the events first, and then the steps the command still needs. -/
theorem issuedCommandsComplete : Obligations.IssuedCommandsComplete := by
  intro s h ha
  obtain ⟨t, hrun, hinv, hev⟩ := h.exists_run_events ha
  rw [run_add hrun]
  exact hinv.exists_run_complete hev fun _ => t.engine.turnsLeft_le

end Sys2Proof.Machine
end

section
/-!
The tail block of TAIL (45_commands.md R166), and the counter and the checksum of HASH(msg) (R171, R174): each is the sum of what
the blocks taken in add to it.
-/
namespace Sys2Proof.Machine

/-! ### The tail block -/

/-- The last bytes of the tail block are those of M (R166). -/
theorem byte_tailBlock_of_le (m : Block) {r i : Nat} (hr : r ≤ 63) (hi : 64 - r ≤ i) (hi' : i < 64) :
    Block.byte (tailBlock m r) i = Block.byte m i := by
  rw [byte_tailBlock m r i hi', if_neg (by omega), if_neg (by omega), if_pos (by omega)]

/-- The tail operand reads the last bytes of M alone (R166). -/
theorem tailBytes_congr {m m' : Block} {r : Nat}
    (h : ∀ i, 64 - r ≤ i → i < 64 → Block.byte m i = Block.byte m' i) (hr : r ≤ 63) : tailBytes m r = tailBytes m' r :=
  List.map_congr_left fun k hk => by
    have := List.mem_range.mp hk
    exact h _ (by omega) (by omega)

/-- Settles O53: the layout of PAD, and the bytes that its operand reads. -/
theorem tailBlockIgnoresOtherBytes : Obligations.TailBlockIgnoresOtherBytes := by
  intro m m' r hr
  refine ⟨fun h => congrArg pad (tailBytes_congr h hr), fun i hi => ?zeros, ?marker, fun i hi hi' =>
    byte_tailBlock_of_le m hr hi hi'⟩
  case zeros => exact byte_pad_zeros (by rwa [tailBytes_length])
  case marker =>
    have hmarker := byte_pad_marker (tailBytes m r)
    rwa [tailBytes_length] at hmarker

/-! ### The counter and the checksum -/

theorem blk_toNat_self (b : Block) : blk b.toNat = b := by rw [blk, BitVec.ofNat_toNat, BitVec.setWidth_eq]

/-- Each full block adds 512 bits to N (R171). -/
theorem consumeFull_n (t : Tables) (k : Nat) (rem : List Byte) {c : HashState} {n : Nat} (hn : c.n = blk n) :
    (consumeFull t k rem c).n = blk (n + 512 * k) := by
  induction k generalizing rem c n with
  | zero => exact hn
  | succ k ih =>
    rw [consumeFull, ih (n := n + 512) _ (by rw [absorb_n, hn, blockAdd_blk])]
    congr 1; omega

/-- Block `j` of the unconsumed message, from its end (R171). -/
def blockFromEnd (rem : List Byte) (j : Nat) : Block :=
  Block.ofByteList ((rem.drop (rem.length - 64 * (j + 1))).take 64)

/-- The first block taken in is the last 64 bytes. -/
theorem blockFromEnd_zero (rem : List Byte) : blockFromEnd rem 0 = Block.ofByteList (rem.drop (rem.length - 64)) := by
  rw [blockFromEnd, List.take_of_length_le (by simp; omega)]

/-- The blocks after it are those of the rest. -/
theorem blockFromEnd_succ {rem : List Byte} {j : Nat} (h : 64 * (j + 2) ≤ rem.length) :
    blockFromEnd rem (j + 1) = blockFromEnd (rem.take (rem.length - 64)) j := by
  have hlen : (rem.take (rem.length - 64)).length = rem.length - 64 := by simp
  have hstart : rem.length - 64 * (j + 1 + 1) = rem.length - 64 - 64 * (j + 1) := by omega
  rw [blockFromEnd, blockFromEnd, hlen, hstart, List.drop_take, List.take_take, Nat.min_eq_left (by omega)]

/-- The integer sum of the first `k` blocks, from the end. -/
def blockSum (rem : List Byte) (k : Nat) : Nat := ((List.range k).map fun j => (blockFromEnd rem j).toNat).sum

theorem blockSum_succ {rem : List Byte} {k : Nat} (h : 64 * (k + 1) ≤ rem.length) :
    blockSum rem (k + 1) = (blockFromEnd rem 0).toNat + blockSum (rem.take (rem.length - 64)) k := by
  have hrest : (List.range k).map (fun j => (blockFromEnd rem (j + 1)).toNat) =
      (List.range k).map fun j => (blockFromEnd (rem.take (rem.length - 64)) j).toNat :=
    List.map_congr_left fun j hj => by
      have := List.mem_range.mp hj
      rw [blockFromEnd_succ (by omega)]
  rw [blockSum, blockSum, List.range_succ_eq_map, List.map_cons, List.sum_cons, List.map_map, ← hrest]
  rfl

/-- Each full block adds itself to SIGMA (R171). -/
theorem consumeFull_sigma (t : Tables) {k : Nat} {rem : List Byte} (h : 64 * k ≤ rem.length) {c : HashState} {n : Nat}
    (hn : c.sigma = blk n) : (consumeFull t k rem c).sigma = blk (n + blockSum rem k) := by
  induction k generalizing rem c n with
  | zero => exact hn
  | succ k ih =>
    have hhead : (absorb t c (blockFromEnd rem 0) 512).sigma = blk (n + (blockFromEnd rem 0).toNat) := by
      rw [absorb_sigma, hn, ← blockAdd_blk, blk_toNat_self]
    rw [consumeFull, ← blockFromEnd_zero, ih (by simp; omega) hhead, blockSum_succ h, Nat.add_assoc]

/-- Settles O59: the full blocks first, and then the padded rest. -/
theorem counterAndChecksum : Obligations.CounterAndChecksum := by
  intro t msg
  have hdiv : 64 * (msg.length / 64) ≤ msg.length := Nat.mul_div_le _ _
  have hmod : (msg.take (msg.length % 64)).length = msg.length % 64 := by
    rw [List.length_take, Nat.min_eq_left (Nat.mod_le _ _)]
  constructor
  · have hbits : 0 + 512 * (msg.length / 64) + 8 * (msg.length % 64) = 8 * msg.length := by omega
    rw [afterTail, absorb_n, consumeFull_n t _ _ (n := 0) rfl, blockAdd_blk, hmod, hbits, blk_toNat]
  · rw [afterTail, absorb_sigma, consumeFull_sigma t hdiv (n := 0) rfl, Nat.zero_add, blockAdd_toNat, blk_toNat,
      Nat.mod_add_mod]
    rfl

end Sys2Proof.Machine
end

section
/-!
HASHMSG under every fair schedule (45_commands.md R172, R173): the program is followed line by line, from one predicate on the
core to the next. While the host moves alone the core is at rest; while a command runs the host is at WAIT, whose reads change
nothing but the list of read words.
-/
namespace Sys2Proof.Machine

/-! ### Where a program comes to -/

/-- Under every fair schedule the host comes to have `rest` left of its program, with the core then in a state of `P`. -/
def Hosted.ComesTo (p : Hosted) (rest : List HostOp) (P : State → Prop) : Prop :=
  ∀ sched, FairSchedule sched → ∃ k t, p.play (firstTurns sched k) = .next ⟨rest, t⟩ ∧ P t

section
variable {p : Hosted} {prog rest rest' : List HostOp} {P Q : State → Prop} {s : State}

theorem Hosted.ComesTo.refl (h : P s) : (⟨prog, s⟩ : Hosted).ComesTo prog P := fun _ _ => ⟨0, s, rfl, h⟩

/-- What is left of a fair schedule is fair, so the rest of the program can be followed on its own. -/
theorem Hosted.ComesTo.trans (h : p.ComesTo rest P) (h' : ∀ t, P t → (⟨rest, t⟩ : Hosted).ComesTo rest' Q) :
    p.ComesTo rest' Q := by
  intro sched hfair
  obtain ⟨j, t, hj, ht⟩ := h sched hfair
  obtain ⟨k, u, hk, hu⟩ := h' t ht _ (hfair.afterTurns j)
  exact ⟨j + k, u, by rw [firstTurns_add, Hosted.play_append hj, hk], hu⟩

theorem Hosted.ComesTo.imp (h : p.ComesTo rest P) (hPQ : ∀ t, P t → Q t) : p.ComesTo rest Q :=
  h.trans fun t ht => .refl (hPQ t ht)

/-- The agent `a` is waited for: until it moves, each turn of the other one keeps the program and `I`. -/
theorem Hosted.ComesTo.of_turn {I : State → Prop} (a : Agent)
    (hstay : ∀ x b, I x → b ≠ a → ∃ t, Hosted.turn ⟨prog, x⟩ b = .next ⟨prog, t⟩ ∧ I t)
    (hgo : ∀ x, I x → ∃ t, Hosted.turn ⟨prog, x⟩ a = .next ⟨rest, t⟩ ∧ P t) (h : I s) :
    (⟨prog, s⟩ : Hosted).ComesTo rest P := by
  intro sched hfair
  obtain ⟨k, hk, hlt⟩ := hfair.first a
  induction k generalizing s sched with
  | zero =>
    obtain ⟨t, ht, hP⟩ := hgo s h
    exact ⟨1, t, by rw [firstTurns_succ, hk, Hosted.play_cons ht]; rfl, hP⟩
  | succ k ih =>
    obtain ⟨u, hu, hI⟩ := hstay s (sched 0) h (hlt 0 k.succ_pos)
    obtain ⟨j, t, ht, hP⟩ := ih hI (afterTurns sched 1) (hfair.afterTurns 1)
      (by rw [afterTurns, Nat.add_comm, hk]) fun i hi => hlt (1 + i) (by omega)
    exact ⟨j + 1, t, by rw [firstTurns_succ, Hosted.play_cons hu, ht], hP⟩

/-- With BUSY = 0 the host's next turn is waited for: the sequencer's turns change nothing but the events (R162). -/
theorem Hosted.ComesTo.of_host_turn {t : State} (hb : s.busy = false)
    (h : ∀ x, x.withEvents [] = s.withEvents [] → Hosted.turn ⟨prog, x⟩ .host = .next ⟨rest, t⟩) :
    (⟨prog, s⟩ : Hosted).ComesTo rest (· = t) := by
  refine .of_turn (I := fun x => x.withEvents [] = s.withEvents []) .host (fun x b hx hne => ?_)
    (fun x hx => ⟨t, h x hx, rfl⟩) rfl
  cases b with
  | host => exact absurd rfl hne
  | sequencer => exact ⟨_, Hosted.turn_sequencer_idle ((congrArg State.busy hx).trans hb), hx⟩

/-- With BUSY = 0 a single access is made. -/
theorem Hosted.ComesTo.access {t : State} {e : Event} (hb : s.busy = false)
    (h : (s.withEvents []).handle e = .next t) : (⟨.access e :: rest, s⟩ : Hosted).ComesTo rest (· = t) :=
  .of_host_turn hb fun x hx => Hosted.turn_access <| by
    rw [step_cons (rest := []) rfl, State.withEvents_withEvents, hx, h]

/-- With BUSY = 0 numbered accesses, the `j`-th of which takes state `u j` to `u (j + 1)`, are made one after another. -/
theorem Hosted.ComesTo.accesses {e : Nat → Event} {u : Nat → State} {k : Nat} (hb : ∀ j < k, (u j).busy = false)
    (h : ∀ j < k, ((u j).withEvents []).handle (e j) = .next ((u (j + 1)).withEvents [])) :
    (⟨((List.range k).map e).map .access ++ rest, u 0⟩ : Hosted).ComesTo rest
      fun t => t.withEvents [] = (u k).withEvents [] := by
  induction k generalizing rest with
  | zero => exact .refl rfl
  | succ k ih =>
    have hk := Nat.lt_succ_self k
    rw [List.range_succ, List.map_append, List.map_append, List.append_assoc]
    refine (ih (fun j hj => hb j (by omega)) fun j hj => h j (by omega)).trans fun t ht => ?_
    have hbt : t.busy = false := (congrArg State.busy ht).trans (hb k hk)
    refine (Hosted.ComesTo.access hbt (ht ▸ h k hk)).imp ?_
    rintro _ rfl
    rfl

/-- With BUSY = 0 WAIT reads STATUS once and ends (R86). -/
theorem Hosted.ComesTo.wait_idle (hb : s.busy = false) :
    (⟨.wait s.config.coreBase :: rest, s⟩ : Hosted).ComesTo rest (· = (s.withEvents []).logRead s.statusWord) :=
  .of_host_turn hb fun x hx => by
    have hconfig : x.config = s.config := (congrArg State.config hx :)
    have hbusy : x.busy = false := (congrArg State.busy hx).trans hb
    have hstatus : x.statusWord = s.statusWord := (congrArg State.statusWord hx :)
    rw [← hconfig, Hosted.turn_wait, hbusy, hx, hstatus]
    rfl

/-- With BUSY = 1 the host stays at WAIT until the sequencer moves (R86). -/
theorem Hosted.ComesTo.wait_busy (hb : s.busy = true)
    (h : ∀ ws, ∃ t, ((s.logReads ws).withEvents []).sequencerTurn = .next t ∧ P t) :
    (⟨.wait s.config.coreBase :: rest, s⟩ : Hosted).ComesTo (.wait s.config.coreBase :: rest) P := by
  refine .of_turn (I := fun x => ∃ ws, x.withEvents [] = (s.logReads ws).withEvents []) .sequencer ?stay ?go ⟨[], rfl⟩
  case stay =>
    rintro x b ⟨ws, hx⟩ hne
    cases b with
    | sequencer => exact absurd rfl hne
    | host =>
      have hconfig : x.config = s.config := (congrArg State.config hx :)
      have hbusy : x.busy = true := (congrArg State.busy hx).trans hb
      rw [← hconfig, Hosted.turn_wait, hbusy]
      exact ⟨_, rfl, x.statusWord :: ws, by rw [hx]; rfl⟩
  case go =>
    rintro x ⟨ws, hx⟩
    obtain ⟨t, ht, hP⟩ := h ws
    refine ⟨t, Hosted.turn_sequencer ?_, hP⟩
    rw [step_cons (rest := []) rfl, State.withEvents_withEvents, hx]
    exact ht

end

/-! ### The core between the lines -/

/-- What the driver knows of the core between two lines: the parameters, the accumulators, STATE and BUSY, and that no error is
pending or shown. -/
structure State.At (s : State) (c : Config) (x : HashState) (e : EngineState) (busy : Bool) : Prop where
  config_eq : s.config = c
  chain_eq : s.chain = x
  engine_eq : s.engine = e
  busy_eq : s.busy = busy
  pend_eq : s.pend = false
  code_eq : s.code = .none

/-- From `s`, a WAIT of the host ends in a state of `P`. -/
def State.AfterWait (s : State) (c : Config) (P : State → Prop) : Prop :=
  ∀ rest, (⟨.wait c.coreBase :: rest, s⟩ : Hosted).ComesTo rest P

/-- The two finalization compressions (R168, R169). -/
def finalizeTwice (t : Tables) (x : HashState) : HashState :=
  finalize t (finalize t x x.n) (finalize t x x.n).sigma

theorem streebog_eq (t : Tables) (msg : List Byte) : streebog t msg = (finalizeTwice t (afterTail t msg)).h := rfl

section
variable {s t : State} {c : Config} {x : HashState} {e : EngineState} {b : Bool} {rest : List HostOp}

/-- The events to come and M are not looked at. -/
theorem State.At.congr (h : s.At c x e b) (m : Block) (ht : t.withEvents [] = (s.setM m).withEvents []) :
    t.At c x e b where
  config_eq := (congrArg State.config ht).trans h.config_eq
  chain_eq := (congrArg State.chain ht).trans h.chain_eq
  engine_eq := (congrArg State.engine ht).trans h.engine_eq
  busy_eq := (congrArg State.busy ht).trans h.busy_eq
  pend_eq := (congrArg State.pend ht).trans h.pend_eq
  code_eq := (congrArg State.code ht).trans h.code_eq

/-- The words read are not looked at. -/
theorem State.At.logReads (h : s.At c x e b) (ws : List Word) : ((s.logReads ws).withEvents []).At c x e b :=
  ⟨h.config_eq, h.chain_eq, h.engine_eq, h.busy_eq, h.pend_eq, h.code_eq⟩

theorem State.At.blockStep (h : s.At c x .full true) : s.blockStep.At c (absorb c.tables x s.m 512) .full false := by
  obtain ⟨rfl, rfl, he, -, hp, hc⟩ := h
  rw [State.blockStep, State.complete_of_not_pend (by exact hp)]
  exact ⟨rfl, rfl, he, rfl, hp, hc⟩

theorem State.At.tailStep (h : s.At c x .tail true) :
    s.tailStep.At c (absorb c.tables x (tailBlock s.m s.tlen.toNat) (8 * s.tlen.toNat)) .finlen true := by
  obtain ⟨rfl, rfl, -, hb, hp, hc⟩ := h
  exact ⟨rfl, rfl, rfl, hb, hp, hc⟩

theorem State.At.finlenStep (h : s.At c x .finlen true) : s.finlenStep.At c (finalize c.tables x x.n) .finsum true := by
  obtain ⟨rfl, rfl, -, hb, hp, hc⟩ := h
  exact ⟨rfl, rfl, rfl, hb, hp, hc⟩

theorem State.At.finsumStep (h : s.At c x .finsum true) :
    s.finsumStep.At c (finalize c.tables x x.sigma) .done false := by
  obtain ⟨rfl, rfl, -, -, hp, hc⟩ := h
  rw [State.finsumStep, State.complete_of_not_pend (by exact hp)]
  exact ⟨rfl, rfl, rfl, rfl, hp, hc⟩

/-! ### WAIT -/

theorem State.At.afterWait_idle (h : s.At c x e false) : s.AfterWait c (·.At c x e false) := by
  obtain rfl := h.config_eq
  refine fun rest => (Hosted.ComesTo.wait_idle h.busy_eq).imp ?_
  rintro _ rfl
  exact h.logReads [s.statusWord]

/-- WAIT on a busy core ends as it does after the sequencer's step. -/
theorem State.At.afterWait_busy {P : State → Prop} (h : s.At c x e true)
    (hturn : ∀ t : State, t.At c x e true → t.m = s.m → t.tlen = s.tlen →
      ∃ u, t.sequencerTurn = .next u ∧ u.AfterWait c P) :
    s.AfterWait c P := by
  obtain rfl := h.config_eq
  exact fun rest => (Hosted.ComesTo.wait_busy h.busy_eq fun ws => hturn _ (h.logReads ws) rfl rfl).trans
    fun u hu => hu rest

/-- WAIT after BLOCK (R164). -/
theorem State.At.afterWait_block (h : s.At c x .full true) :
    s.AfterWait c (·.At c (absorb c.tables x s.m 512) .full false) :=
  h.afterWait_busy fun _ ht hm _ =>
    ⟨_, State.sequencerTurn_of_full ht.busy_eq ht.engine_eq, hm ▸ ht.blockStep.afterWait_idle⟩

theorem State.At.afterWait_finsum (h : s.At c x .finsum true) :
    s.AfterWait c (·.At c (finalize c.tables x x.sigma) .done false) :=
  h.afterWait_busy fun _ ht _ _ =>
    ⟨_, State.sequencerTurn_of_finsum ht.busy_eq ht.engine_eq, ht.finsumStep.afterWait_idle⟩

theorem State.At.afterWait_finlen (h : s.At c x .finlen true) :
    s.AfterWait c (·.At c (finalizeTwice c.tables x) .done false) :=
  h.afterWait_busy fun _ ht _ _ =>
    ⟨_, State.sequencerTurn_of_finlen ht.busy_eq ht.engine_eq, ht.finlenStep.afterWait_finsum⟩

/-- WAIT after TAIL: the three steps of R167 to R169. -/
theorem State.At.afterWait_tail (h : s.At c x .tail true) :
    s.AfterWait c (·.At c
      (finalizeTwice c.tables (absorb c.tables x (tailBlock s.m s.tlen.toNat) (8 * s.tlen.toNat))) .done false) :=
  h.afterWait_busy fun _ ht hm hl =>
    ⟨_, State.sequencerTurn_of_tail ht.busy_eq ht.engine_eq, hm ▸ hl ▸ ht.tailStep.afterWait_finlen⟩

/-! ### The commands and LDM -/

/-- The host's write of a command's word issues the command (R85, R160). -/
theorem State.handle_command (s : State) {i : Instr} (hi : i.wellFormed = true) :
    s.handle (command s.config.coreBase i) = exec i s := by
  have hoff : s.windowOffset (s.config.coreBase + 0x000) 4 = .ok 0x000 := s.windowOffset_at _ (by decide) rfl
  simp only [command, wr, State.handle, hoff]
  exact State.issue_of_decode (decode_encode hi) s

/-- With BUSY = 0 a command is issued. -/
theorem Hosted.comesTo_command {i : Instr} (hi : i.wellFormed = true) (hc : s.config = c) (hb : s.busy = false)
    (h : exec i (s.withEvents []) = .next t) :
    (⟨.access (command c.coreBase i) :: rest, s⟩ : Hosted).ComesTo rest (· = t) :=
  .access hb (by rw [← hc, ← h]; exact (s.withEvents []).handle_command hi)

/-- INIT, from any STATE (R163). -/
theorem Hosted.comesTo_init (hb : s.busy = false) (hp : s.pend = false) :
    (⟨.access (command s.config.coreBase .init) :: rest, s⟩ : Hosted).ComesTo rest
      (·.At s.config .initial .full false) := by
  refine (Hosted.comesTo_command rfl rfl hb (exec_init_of_idle hb)).imp ?_
  rintro _ rfl
  exact ⟨rfl, rfl, rfl, hb, hp, rfl⟩

/-- LDM loads M and changes nothing else that the driver knows (R86). -/
theorem State.At.comesTo_ldm (h : s.At c x e false) (m : Block) :
    (⟨(ldm c.coreBase m).map .access ++ rest, s⟩ : Hosted).ComesTo rest fun t => t.At c x e false ∧ t.m = m := by
  obtain rfl := h.config_eq
  have hwrites := Hosted.ComesTo.accesses (rest := rest) (k := 16) (u := fun k => s.setM (Block.setWords s.m m k))
    (e := fun j => wr s.config.coreBase (0x040 + 4 * j) (Block.word m j)) (fun _ _ => h.busy_eq)
    fun j hj => State.handle_wr_m (s := (s.setM (Block.setWords s.m m j)).withEvents []) h.busy_eq hj _
  rw [Block.setWords_all] at hwrites
  exact hwrites.imp fun t ht => ⟨h.congr m ht, congrArg State.m ht⟩

/-- BLOCK in FULL: a WAIT then ends with M taken in (R164). -/
theorem State.At.comesTo_block (h : s.At c x .full false) :
    (⟨.access (command c.coreBase .block) :: rest, s⟩ : Hosted).ComesTo rest
      (·.AfterWait c (·.At c (absorb c.tables x s.m 512) .full false)) := by
  refine (Hosted.comesTo_command rfl h.config_eq h.busy_eq (exec_block_of_full h.busy_eq h.engine_eq)).imp ?_
  rintro _ rfl
  have hbusy : ((s.withEvents []).beginBlock).At c x .full true :=
    ⟨h.config_eq, h.chain_eq, h.engine_eq, rfl, h.pend_eq, h.code_eq⟩
  exact hbusy.afterWait_block

/-- TAIL in FULL with the tail in place: a WAIT then ends with the digest in H (R165 to R169). -/
theorem State.At.comesTo_tail (h : s.At c x .full false) {tail : List Byte} (ht : tail.length ≤ 63)
    (hm : s.m = rightJustified tail) :
    (⟨.access (command c.coreBase (.tail (BitVec.ofNat 7 tail.length))) :: rest, s⟩ : Hosted).ComesTo rest
      (·.AfterWait c (·.At c (finalizeTwice c.tables (absorb c.tables x (pad tail) (8 * tail.length))) .done false)) := by
  have hlen : (BitVec.ofNat 7 tail.length).toNat = tail.length := by
    rw [BitVec.toNat_ofNat, Nat.mod_eq_of_lt (by omega)]
  have hle : (BitVec.ofNat 7 tail.length).toNat ≤ maxTailLen := hlen.trans_le ht
  have hpad : tailBlock s.m tail.length = pad tail := by rw [hm, tailBlock, ldtPlacesTheTail tail ht]
  refine (Hosted.comesTo_command (i := .tail _) (decide_eq_true hle) h.config_eq h.busy_eq
    (exec_tail_of_full (s := s.withEvents []) h.busy_eq h.engine_eq hle)).imp ?_
  rintro _ rfl
  have hbusy : ((s.withEvents []).beginTail (BitVec.ofNat 7 tail.length)).At c x .tail true :=
    ⟨h.config_eq, h.chain_eq, rfl, rfl, h.pend_eq, h.code_eq⟩
  have hwait := hbusy.afterWait_tail
  simp only [State.beginTail_m, State.withEvents_m, State.beginTail_tlen, hlen, hpad] at hwait
  exact hwait

/-! ### The driver -/

/-- The loop of R172: if a WAIT now ends with `x`, then after the loop it ends with the `k` blocks taken in. -/
theorem State.AfterWait.comesTo_driveBlocks {k : Nat} {rem : List Byte} (h : s.AfterWait c (·.At c x .full false)) :
    (⟨driveBlocks c.coreBase k rem ++ rest, s⟩ : Hosted).ComesTo rest
      (·.AfterWait c (·.At c (consumeFull c.tables k rem x) .full false)) := by
  induction k generalizing s rem x with
  | zero => exact .refl h
  | succ k ih =>
    simp only [driveBlocks, List.cons_append, List.append_assoc]
    refine (h _).trans fun t ht => (ht.comesTo_ldm _).trans fun t ⟨ht, hm⟩ => ht.comesTo_block.trans fun t ht => ?_
    rw [hm] at ht
    exact ih ht

/-- A core in DONE with no error shows STATUS 0x00000405 (R27). -/
theorem State.At.statusWord_done (h : s.At c x .done false) : s.statusWord = 0x00000405#32 := by
  simp only [State.statusWord, State.err, State.dvalid, h.engine_eq, h.busy_eq, h.pend_eq, h.code_eq]
  rfl

/-- A host read of STATUS (R55, R85). -/
theorem State.handle_rd_status (s : State) :
    s.handle (rd s.config.coreBase 0x004) = .next (s.logRead s.statusWord) := by
  have hoff : s.windowOffset (s.config.coreBase + 0x004) 4 = .ok 0x004 := s.windowOffset_at _ (by decide) rfl
  simp only [rd, State.handle, hoff, State.readWindow_status]

/-- With BUSY = 0 RDH hands over the words of H (R86). -/
theorem Hosted.comesTo_rdh (hb : s.busy = false) :
    (⟨(rdh s.config.coreBase).map .access ++ rest, s⟩ : Hosted).ComesTo rest fun t =>
      t.withEvents [] = (s.logReads (Block.wordsRead s.h 16)).withEvents [] :=
  .accesses (u := fun k => s.logReads (Block.wordsRead s.h k)) (fun _ _ => hb) fun j hj => by
    rw [Block.wordsRead_succ, ← State.logRead_logReads]
    exact ((s.logReads (Block.wordsRead s.h j)).withEvents []).handle_rd_h hj

/-- The last reads of HASHMSG on a core in DONE: STATUS, and then the words of H (R86). -/
theorem State.At.comesTo_results (h : s.At c x .done false) :
    (⟨.access (rd c.coreBase 0x004) :: (rdh c.coreBase).map .access, s⟩ : Hosted).ComesTo [] fun t =>
      ∃ more, t.reads = Block.wordsRead x.h 16 ++ 0x00000405#32 :: more ∧ t.engine = .done ∧ t.h = x.h := by
  obtain rfl := h.config_eq
  obtain rfl := h.chain_eq
  refine (Hosted.ComesTo.access h.busy_eq (s.withEvents []).handle_rd_status).trans ?_
  rintro _ rfl
  have hrdh := Hosted.comesTo_rdh (s := (s.withEvents []).logRead s.statusWord) (rest := []) h.busy_eq
  rw [List.append_nil] at hrdh
  refine hrdh.imp fun t ht => ⟨s.reads, ?_, (congrArg State.engine ht).trans h.engine_eq, (congrArg State.h ht :)⟩
  rw [← h.statusWord_done]
  exact congrArg State.reads ht

end

/-- The whole program, line by line (R172). -/
theorem Hosted.comesTo_hashMsg {s : State} (hb : s.busy = false) (hp : s.pend = false) (msg : List Byte) :
    (⟨hashMsg s.config.coreBase msg, s⟩ : Hosted).ComesTo [] fun t =>
      ∃ more, t.reads = Block.wordsRead (streebog s.config.tables msg) 16 ++ 0x00000405#32 :: more ∧ t.engine = .done ∧
        t.h = streebog s.config.tables msg := by
  have hlen : (msg.take (msg.length % 64)).length ≤ 63 := by
    rw [List.length_take]; omega
  simp only [hashMsg, List.cons_append, List.append_assoc]
  refine (Hosted.comesTo_init hb hp).trans fun t ht => ?_
  refine ht.afterWait_idle.comesTo_driveBlocks.trans fun t hwait => (hwait _).trans fun t ht => ?_
  refine (ht.comesTo_ldm _).trans fun t ⟨ht, hm⟩ => (ht.comesTo_tail hlen hm).trans fun t hwait => ?_
  exact (hwait _).trans fun t ht => ht.comesTo_results

/-- Settles O60: the sixteen words read join to H. -/
theorem hashMsgComputesHash : Obligations.HashMsgComputesHash := by
  intro s msg sched hb hp hfair
  obtain ⟨k, t, hplay, more, hreads, hdone, hh⟩ := Hosted.comesTo_hashMsg hb hp msg sched hfair
  exact ⟨k, t, _, more, hplay, hreads, Block.length_wordsRead _ 16, wordsJoinToTheBlock _, hdone, hh⟩

end Sys2Proof.Machine
end

section
/-!
Exceptions (60_exceptions.md): which command words raise codes 1 and 2 (R201, R202), the sequence error (R203), the writes
that BUSY discards (R206), and what the ERROR state answers and how it is left (R208, R209).
-/
namespace Sys2Proof.Machine

/-! ### The words that are no command -/

/-- The fields of an ILLEGAL word: a reserved opcode, or a command's opcode with a reserved bit set (R84). -/
theorem decode_eq_illegal_of_fields {v : Word}
    (h : (opField v ≠ 1#4 ∧ opField v ≠ 2#4 ∧ opField v ≠ 3#4) ∨
      ((opField v = 1#4 ∨ opField v = 2#4) ∧ v.extractLsb' 4 28 ≠ 0#28) ∨
      (opField v = 3#4 ∧ (v.extractLsb' 4 4 ≠ 0#4 ∨ v.extractLsb' 15 17 ≠ 0#17))) : decode v = .illegal := by
  rw [decode_eq_illegal_iff]
  rintro (_ | _ | r) rfl
  · exact absurd h (by decide)
  · exact absurd h (by decide)
  · obtain ⟨hop, -, hlow, hhigh⟩ := Laws.EncodedFields.tail r
    simp [hop, hlow, hhigh, Laws.opcodeOf] at h

/-- The fields of a BADLEN word: TAIL's opcode, no reserved bit set, and LEN above 63 (R84). -/
theorem decode_eq_badLen_of_fields {v : Word} (hop : opField v = 3#4) (hlow : v.extractLsb' 4 4 = 0#4)
    (hhigh : v.extractLsb' 15 17 = 0#17) (hlen : 64 ≤ (lenField v).toNat) : decode v = .badLen (lenField v) := by
  refine decode_eq_badLen_iff.mpr ⟨hlen, ?_⟩
  have hfields := word_fields v
  rwa [hop, hlow, hhigh] at hfields

/-- A step at a CMD write that the first two checks of R205 let through. -/
theorem step_cmdWrite_of_ready {s : State} {v : Word} {rest : List Event} (hb : s.busy = false) (hs : s.engine ≠ .error)
    (he : s.events = s.cmdWrite v :: rest) : step s = .next ((s.withEvents rest).issueReady (decode v)) :=
  (step_cmdWrite he).trans (State.issue_of_ready (s := s.withEvents rest) hb (.inl hs))

/-- Settles O13: the fields name the decoded kind, and its issue enters ERROR. -/
theorem illegalWordsRaiseErrors : Obligations.IllegalWordsRaiseErrors := by
  intro s v rest hb hs he
  rw [step_cmdWrite_of_ready hb hs he]
  constructor
  · intro hfields
    rw [decode_eq_illegal_of_fields hfields]
    rfl
  · rintro ⟨hop, hlow, hhigh, hlen⟩
    rw [decode_eq_badLen_of_fields hop hlow hhigh hlen]
    rfl

/-! ### The sequence error -/

/-- Outside FULL and ERROR the sequence check of BLOCK and TAIL enters ERROR (R203). -/
theorem State.inSequence_of_outside {s : State} (hb : s.busy = false) (he : s.engine ≠ .error) (hf : s.engine ≠ .full)
    (act : State → State) : s.inSequence act = s.enterError .sequence := by
  rw [State.inSequence_of_ready hb he, if_neg hf]

/-- Settles O14: IDLE and DONE are neither FULL nor ERROR, for BLOCK and TAIL alike. -/
theorem commandsOutOfSequence : Obligations.CommandsOutOfSequence := by
  intro s i hwf hi hb hs
  have houtside : s.engine ≠ .error ∧ s.engine ≠ .full := by rcases hs with hs | hs <;> simp [hs]
  obtain ⟨hne, hnf⟩ := houtside
  cases i with
  | init => exact absurd rfl hi
  | block => exact congrArg _ (State.inSequence_of_outside hb hne hnf _)
  | tail r =>
    rw [exec_tail_of_le (of_decide_eq_true hwf)]
    exact congrArg _ (State.inSequence_of_outside hb hne hnf _)

/-! ### Writes while BUSY -/

/-- Settles O15: CMD, the words of M, and the offsets that ignore every write. -/
theorem busyWritesAreDiscarded : Obligations.BusyWritesAreDiscarded := by
  intro s off v rest hb hoff halign he
  by_cases hcmd : off = 0x000
  · subst hcmd
    rw [if_pos (.inl rfl), step_cmdWrite he]
    exact State.issue_of_busy (s := s.withEvents rest) hb v
  by_cases hm : 0x040 ≤ off ∧ off ≤ 0x07C
  · rw [if_pos (.inr hm)]
    obtain ⟨j, hj, rfl⟩ : ∃ j < 16, off = 0x040 + 4 * j := ⟨(off - 0x040) / 4, by omega, by omega⟩
    exact (messageWordWrite s j v rest hj he).2 hb
  · rw [if_neg (not_or.mpr ⟨hcmd, hm⟩)]
    exact writesElsewhereAreIgnored s off v rest hoff halign hcmd (by omega) he

/-! ### The ERROR state -/

/-- A step at a read of word `j` of a Block that stands in the window from `base` on (R51, R55). -/
theorem step_read_word {s : State} {base : Nat} {b : Block} (hbase : base ≤ 0x1C0) (halign : base % 4 = 0)
    (hword : ∀ {j}, j < 16 → s.readWindow (base + 4 * j) = Block.word b j) (j : Nat) (rest : List Event) (hj : j < 16)
    (he : s.events = .read (s.config.coreBase + (base + 4 * j)) 4 :: rest) :
    step s = .next { s with events := rest, reads := Block.word b j :: s.reads } := by
  rw [step_read (by omega) (by omega) he, hword hj]
  rfl

/-- A step at a write of word `j` of M with BUSY = 0, in any STATE (R53, R56). -/
theorem step_write_m {s : State} (hb : s.busy = false) {j : Nat} {v : Word} {rest : List Event} (hj : j < 16)
    (he : s.events = .write (s.config.coreBase + (0x040 + 4 * j)) 4 v :: rest) :
    step s = .next { s with events := rest, m := Block.setWord s.m j v } := by
  rw [step_write (by omega) (by omega) he, State.writeWindow_m _ hj, (s.withEvents rest).writeM_of_not_busy hb]
  rfl

/-- Settles O16: only the CMD write looks at STATE; every other access is as in any STATE with BUSY = 0. -/
theorem errorStateBehaviour : Obligations.ErrorStateBehaviour := by
  intro s hs hb
  refine ⟨?cmd, fun j v rest => step_write_m hb, step_read_word (by decide) (by decide) s.readWindow_m,
    step_read_word (by decide) (by decide) s.readWindow_h, step_read_word (by decide) (by decide) s.readWindow_n,
    step_read_word (by decide) (by decide) s.readWindow_sigma, State.sequencerTurn_of_idle hb⟩
  intro v rest he
  rw [step_cmdWrite he]
  split
  · next hinit =>
    subst hinit
    exact (State.issue_of_decode (i := .init) (by decide) _).trans (exec_init_of_idle (s := s.withEvents rest) hb)
  · next hother => exact State.issue_of_error (s := s.withEvents rest) hb hs (mt eq_one_of_decode_init hother)

/-- The moves from ERROR with BUSY = 0: INIT, Reset, and those that keep STATE and CODE (R208, R209). -/
theorem Moves.of_error {u t : State} {e : Option Event} (h : Moves u e t) (hs : u.engine = .error) (hb : u.busy = false) :
    (t.engine = u.engine ∧ t.code = u.code) ∨ (e = some (u.cmdWrite 0x00000001#32) ∧ t = u.startHash) ∨
      (e = some .reset ∧ t = u.applyReset) := by
  cases h with
  | init ho _ hd =>
    rw [write_eq_cmdWrite ho, eq_one_of_decode_init hd]
    exact .inr (.inl ⟨rfl, rfl⟩)
  | reset => exact .inr (.inr ⟨rfl, rfl⟩)
  | noTurn | read | ignoredInError | setM | ignoredWrite => exact .inl ⟨rfl, rfl⟩
  | illegal _ _ hne | badLen _ _ hne | outOfSequence _ _ hne => exact absurd hs hne
  | block _ _ hf | tail _ _ hf => cases hs.symm.trans hf
  | blockStep _ h1 | tailStep _ h1 | finlenStep _ h1 | finsumStep _ h1 | discarded _ _ h1 => cases hb.symm.trans h1

/-- Settles O17, from the moves out of ERROR. -/
theorem errorLeftOnlyByInitOrReset : Obligations.ErrorLeftOnlyByInitOrReset := by
  intro s t hs hb hstep
  rcases (step_moves hstep).of_error hs hb with ⟨he, hc⟩ | ⟨he, rfl⟩ | ⟨he, rfl⟩
  · exact .inl ⟨he.trans hs, hc⟩
  · exact .inr (.inl ⟨he, rfl, rfl⟩)
  · exact .inr (.inr ⟨he, rfl, rfl⟩)

end Sys2Proof.Machine
end

section
/-!
Reset (70_reset_and_hazards.md R240, R241): the state after it and what the window reads there. And the latencies (R250), which
no step reads: each operation of the model commutes with building the core with other latencies.
-/
namespace Sys2Proof.Machine

/-! ### Reset -/

/-- Settles O46: the event's whole effect is the reset of the registers. -/
theorem resetEventSetsEveryRegister : Obligations.ResetEventSetsEveryRegister := by
  intro s rest he
  calc step s = (s.withEvents rest).handle .reset := step_cons he
    _ = .next (s.withEvents rest).applyReset := rfl

/-- The words of the zero Block are zero (R52). -/
theorem Block.word_blk_zero (j : Nat) : Block.word (blk 0) j = 0#32 := by
  have hbyte (i : Nat) : Block.byte (blk 0) i = 0#8 := BitVec.extractLsb'_zero
  simp only [Block.word, hbyte]
  rfl

/-- STATUS after reset: IDLE, no error cause, and no flag set (R27, R240). -/
theorem State.statusWord_resetWith (c : Config) : (State.resetWith c).statusWord = 0#32 := by
  simp only [State.statusWord, State.err, State.dvalid, State.resetWith]
  decide

/-- Settles O47, range by range of the register map: each reads as zero always, or reads a register that reset cleared. -/
theorem windowReadsZeroAfterReset : Obligations.WindowReadsZeroAfterReset := by
  intro c off
  unfold State.readWindow
  split_ifs with hcmd hstatus hm hh hn hsigma
  · rfl
  · exact State.statusWord_resetWith c
  · exact Block.word_blk_zero _
  · exact Block.word_blk_zero _
  · exact Block.word_blk_zero _
  · exact Block.word_blk_zero _
  · rfl

/-! ### What reads no latency -/

/-- `f` reads no latency: for a core built with others it answers the same, with the others put in the answer by `put`. -/
def LatencyBlind {α : Type} (put : α → Nat → Nat → α) (f : State → α) : Prop :=
  ∀ s a b, f (s.withLatencies a b) = put (f s) a b

/-- An outcome with its next state, if it has one, built with other latencies. -/
def outcomeWithLatencies (o : Host.Outcome State Fault Refusal) (a b : Nat) : Host.Outcome State Fault Refusal :=
  match o with
  | .next t => .next (t.withLatencies a b)
  | .fault f => .fault f
  | .refused r => .refused r

/-- A choice between two such functions, by a test of the state that reads no latency either. -/
theorem LatencyBlind.ite {α : Type} {put : α → Nat → Nat → α} {p : State → Prop} [DecidablePred p] {f g : State → α}
    (hp : ∀ s a b, p (s.withLatencies a b) ↔ p s) (hf : LatencyBlind put f) (hg : LatencyBlind put g) :
    LatencyBlind put fun s => if p s then f s else g s := by
  intro s a b
  by_cases h : p s
  · simp only [if_pos h, if_pos ((hp s a b).mpr h), hf s a b]
  · simp only [if_neg h, if_neg (mt (hp s a b).mp h), hg s a b]

/-- An operation on the registers, and then a function of the state it leaves. -/
theorem LatencyBlind.comp {α : Type} {put : α → Nat → Nat → α} {f : State → State} {g : State → α}
    (hg : LatencyBlind put g) (hf : LatencyBlind State.withLatencies f) : LatencyBlind put fun s => g (f s) :=
  fun s a b => (congrArg g (hf s a b)).trans (hg (f s) a b)

/-- An operation on the registers, taken as the outcome of an event. -/
theorem LatencyBlind.next {f : State → State} (hf : LatencyBlind State.withLatencies f) :
    LatencyBlind outcomeWithLatencies fun s => .next (f s) := fun s a b => congrArg _ (hf s a b)

/-! ### The operations -/

theorem State.complete_latencyBlind : LatencyBlind State.withLatencies State.complete :=
  .ite (fun _ _ _ => .rfl) (fun _ _ _ => rfl) (fun _ _ _ => rfl)

theorem State.writeM_latencyBlind (j : Nat) (v : Word) : LatencyBlind State.withLatencies (·.writeM j v) :=
  .ite (fun _ _ _ => .rfl) (fun _ _ _ => rfl) (fun _ _ _ => rfl)

section
variable {act : State → State} (h : LatencyBlind State.withLatencies act)
include h

theorem LatencyBlind.gate : LatencyBlind State.withLatencies (·.gate act) :=
  .ite (fun _ _ _ => .rfl) (fun _ _ _ => rfl) (.ite (fun _ _ _ => .rfl) (fun _ _ _ => rfl) h)

theorem LatencyBlind.inSequence : LatencyBlind State.withLatencies (·.inSequence act) :=
  LatencyBlind.gate (.ite (fun _ _ _ => .rfl) h (fun _ _ _ => rfl))

end

/-- A sequencer step reads TABLES and no other parameter (R164). -/
theorem State.blockStep_latencyBlind : LatencyBlind State.withLatencies State.blockStep :=
  State.complete_latencyBlind.comp fun _ _ _ => rfl

theorem State.finsumStep_latencyBlind : LatencyBlind State.withLatencies State.finsumStep :=
  State.complete_latencyBlind.comp fun _ _ _ => rfl

theorem State.sequencerTurn_latencyBlind : LatencyBlind outcomeWithLatencies State.sequencerTurn := by
  refine .ite (fun _ _ _ => .rfl) (fun s a b => ?_) (fun _ _ _ => rfl)
  have he : (s.withLatencies a b).engine = s.engine := rfl
  rw [he]
  cases s.engine with
  | full => exact State.blockStep_latencyBlind.next s a b
  | finsum => exact State.finsumStep_latencyBlind.next s a b
  | _ => rfl

theorem State.issueBadLen_latencyBlind : LatencyBlind State.withLatencies State.issueBadLen :=
  LatencyBlind.gate fun _ _ _ => rfl

theorem State.issueIllegal_latencyBlind : LatencyBlind State.withLatencies State.issueIllegal :=
  LatencyBlind.gate fun _ _ _ => rfl

theorem exec_latencyBlind (i : Instr) : LatencyBlind outcomeWithLatencies (exec i) := by
  cases i with
  | init => exact .next (.ite (fun _ _ _ => .rfl) (fun _ _ _ => rfl) (fun _ _ _ => rfl))
  | block => exact .next (LatencyBlind.inSequence fun _ _ _ => rfl)
  | tail r =>
    exact .next (.ite (fun _ _ _ => .rfl) (LatencyBlind.inSequence fun _ _ _ => rfl) State.issueBadLen_latencyBlind)

theorem State.issue_latencyBlind (v : Word) : LatencyBlind outcomeWithLatencies (·.issue v) := by
  unfold State.issue
  cases decode v with
  | instr i => exact exec_latencyBlind i
  | badLen r => exact State.issueBadLen_latencyBlind.next
  | illegal => exact State.issueIllegal_latencyBlind.next

theorem State.writeWindow_latencyBlind (off : Nat) (v : Word) :
    LatencyBlind outcomeWithLatencies (·.writeWindow off v) :=
  .ite (fun _ _ _ => .rfl) (State.issue_latencyBlind v)
    (.ite (fun _ _ _ => .rfl) (State.writeM_latencyBlind _ v).next (fun _ _ _ => rfl))

theorem State.handle_latencyBlind (e : Event) : LatencyBlind outcomeWithLatencies (·.handle e) := by
  intro s a b
  have hoff := State.windowOffset_congr (s := s.withLatencies a b) (s' := s) rfl
  cases e with
  | read addr bytes =>
    simp only [State.handle, hoff]
    cases s.windowOffset addr bytes with
    | ok off => rfl
    | error f => rfl
  | write addr bytes v =>
    simp only [State.handle, hoff]
    cases s.windowOffset addr bytes with
    | ok off => exact State.writeWindow_latencyBlind off v s a b
    | error f => rfl
  | reset => rfl
  | sequencer => exact State.sequencerTurn_latencyBlind s a b

theorem step_latencyBlind : LatencyBlind outcomeWithLatencies step := by
  intro s a b
  cases he : s.events with
  | nil =>
    rw [step_nil he, step_nil (s := s.withLatencies a b) he]
    exact State.sequencerTurn_latencyBlind s a b
  | cons e rest =>
    rw [step_cons he, step_cons (s := s.withLatencies a b) he]
    exact State.handle_latencyBlind e (s.withEvents rest) a b

/-- Settles O40, operation by operation: faults and refusals are the same too. -/
theorem latenciesAreUnobservable : Obligations.LatenciesAreUnobservable := by
  intro s a b
  rw [step_latencyBlind s a b]
  cases step s with
  | next t => rfl
  | fault f => rfl
  | refused r => rfl

end Sys2Proof.Machine
end
